-- ==== Sys2Proof/Word.lean ====
section
/-! DEFINITION. The word types of the block: bytes of the command port and of the SPI Link, and 16-bit words
(00_scope.md R7: bit 0 is the least significant bit; every value is unsigned). -/

namespace Sys2Proof

/-- A byte of the command port or of the SPI Link. -/
abbrev Byte := BitVec 8

/-- A 16-bit operand, response value, wire word, `SEQ_TMP` or `DP_SHADOW`. -/
abbrev Word := BitVec 16

end Sys2Proof
end

