-- ==== Sys2Proof/Config.lean ====
section
/-! DEFINITION. What an implementation of the block fixes: the parameters of 00_scope.md R6, their legal values and
their defaults, and the one free value. The parameters are an argument of the machine (they stand in `State.cfg`,
log 3), so a statement about every state is a statement about every parameter choice. -/

namespace Sys2Proof

/-- The implementation parameters of 00_scope.md R6. `PAYLOAD_BITS` has the one legal value 10 and is no field. -/
structure Params where
  /-- `N_PC`, width of `PC_CNT` and `PC_CMP`. -/
  nPc : Nat
  /-- `N_WT`, width of `WT_CNT` and `WT_CMP`. -/
  nWt : Nat
  /-- `PSC_BITS`, width of the shared prescaler counter. -/
  pscBits : Nat
  /-- `DIV`, the clock-select values with their divisors. -/
  div : List (Nat × Nat)
  /-- `PC_CMP_RESET`. -/
  pcCmpReset : Nat
  /-- `WT_CMP_RESET`. -/
  wtCmpReset : Nat
  /-- `WT_RUNCS_RESET`. -/
  wtRuncsReset : BitVec 3
  /-- `STEPS`, the number of wiper positions. -/
  steps : Nat
  /-- `WIPER_ADDR`, the register address of the wire word. -/
  wiperAddr : BitVec 4
  /-- `CMD_WRITE`. -/
  cmdWrite : BitVec 2
  /-- `CMD_INCR`. -/
  cmdIncr : BitVec 2
  /-- `CMD_DECR`. -/
  cmdDecr : BitVec 2
  /-- `CMD_READ`. -/
  cmdRead : BitVec 2
  /-- `WIPER_DEFAULT`, the reset value of `DP_SHADOW`. -/
  wiperDefault : Nat
  /-- `SHADOW_BITS`, the width of `DP_SHADOW`. -/
  shadowBits : Nat
  /-- `SPI_CPOL`, clock polarity: the idle level of `SPI_SCK`. -/
  cpol : Bool
  /-- `SPI_CPHA`, clock phase. -/
  cpha : Bool
  /-- `SPI_LSBFIRST`. -/
  lsbFirst : Bool
  /-- `SPI_CS_ACTIVE_HIGH`; it is also the level `CS_ACTIVE` of 43_spi_link.md R163. -/
  csActiveHigh : Bool
  /-- `DT_PERIOD`, the display tick period in base clocks. -/
  dtPeriod : Nat
deriving DecidableEq, Repr

/-- The defaults of 00_scope.md R6. `DT_PERIOD` has none there: 1000 is a DESIGN CHOICE (log 4), the value of the
vectors of 95_test_vectors.md 2.8. -/
def Params.default : Params where
  nPc := 16
  nWt := 16
  pscBits := 10
  div := [(1, 1), (2, 8), (3, 64), (4, 256), (5, 1024)]
  pcCmpReset := 16
  wtCmpReset := 65535
  wtRuncsReset := 3
  steps := 257
  wiperAddr := 0
  cmdWrite := 0
  cmdIncr := 1
  cmdDecr := 2
  cmdRead := 3
  wiperDefault := 128
  shadowBits := 16
  cpol := false
  cpha := false
  lsbFirst := false
  csActiveHigh := false
  dtPeriod := 1000

/-- The four command-type codes are distinct (00_scope.md R6). -/
def Params.codesDistinct (p : Params) : Bool :=
  decide [p.cmdWrite, p.cmdIncr, p.cmdDecr, p.cmdRead].Nodup

/-- `DIV` is a map from 3-bit non-zero clock-select values to divisors, each of which divides 2^PSC_BITS
(00_scope.md R6, 10_state.md R16). -/
def Params.divLegal (p : Params) : Bool :=
  decide (p.div.map (·.1)).Nodup &&
  p.div.all fun e => decide (1 ≤ e.1 ∧ e.1 ≤ 7 ∧ 1 ≤ e.2 ∧ 2 ^ p.pscBits % e.2 = 0)

/-- The legal values of the parameters (00_scope.md R6). -/
def Params.legal (p : Params) : Bool :=
  decide (1 ≤ p.nPc ∧ p.nPc ≤ 16) && decide (1 ≤ p.nWt ∧ p.nWt ≤ 16) && decide (1 ≤ p.pscBits) &&
  p.divLegal && decide (p.pcCmpReset < 2 ^ p.nPc) && decide (p.wtCmpReset < 2 ^ p.nWt) &&
  p.div.any (fun e => e.1 == p.wtRuncsReset.toNat) && decide (1 ≤ p.steps ∧ p.steps ≤ 1024) &&
  p.codesDistinct && decide (p.wiperDefault < p.steps) && decide (10 ≤ p.shadowBits) && decide (1 ≤ p.dtPeriod)

/-- FREE VALUE (log 5): what `DP_SHADOW` holds after a write of a value that does not fit `SHADOW_BITS` bits, which
no rule states; applied to the counter `State.freeIdx` and cut to the register's width. -/
opaque Config.freeShadow : Nat → Nat

end Sys2Proof
end

