-- ==== Sys2Proof/Syntax.lean ====
section
/-! DEFINITION. The instructions: one constructor per row of opcode_table.json. 27 host commands (30_encoding.md R74)
and the 4 wire words of the actuator protocol (R78, R80, R82), with the mnemonics, the pseudo-operations (R86) and
the written form of R85. -/

namespace Sys2Proof

/-- The two encoding spaces of 30_encoding.md R70. -/
inductive EncodingSpace where
  /-- (b) a host command: opcode byte and operand bytes. -/
  | host
  /-- (a) a wire word: two bytes, the high byte first. -/
  | wire
deriving DecidableEq, Repr

/-- The instructions. Operands are those of 30_encoding.md R72 and R78; `DP_SET_TEXT`'s `len` is the length of
`text`. -/
inductive Instr where
  | pcEnable
  | pcDisable
  | pcClear
  | pcRead
  | pcSetcmp (imm16 : Word)
  | wtInit
  | wtStart
  | wtStop
  | wtRead
  | wtSetcmp (imm16 : Word)
  | wtSetruncs (imm8 : Byte)
  | wtClr
  | syncHold
  | wtSetcs (imm8 : Byte)
  | pscReset
  | syncRelease
  | spiWrite8 (imm8 : Byte)
  | spiWrite16 (imm16 : Word)
  | dpInc
  | dpDec
  | dpSetText (text : List Byte)
  | dpSetNum (imm16 : Word)
  | dpGet
  | dtStart
  | dtStop
  | evtRead
  | evtAck (imm8 : Byte)
  | wireWrite (addr : BitVec 4) (data : BitVec 10)
  | wireIncr (addr : BitVec 4) (data : BitVec 10)
  | wireDecr (addr : BitVec 4) (data : BitVec 10)
  | wireRead (addr : BitVec 4) (data : BitVec 10)
deriving DecidableEq, Repr

/-- Which encoding space an instruction belongs to (30_encoding.md R70). -/
def Instr.space : Instr → EncodingSpace
  | .wireWrite _ _ | .wireIncr _ _ | .wireDecr _ _ | .wireRead _ _ => .wire
  | .pcEnable | .pcDisable | .pcClear | .pcRead | .pcSetcmp _ | .wtInit | .wtStart | .wtStop | .wtRead
  | .wtSetcmp _ | .wtSetruncs _ | .wtClr | .syncHold | .wtSetcs _ | .pscReset | .syncRelease | .spiWrite8 _
  | .spiWrite16 _ | .dpInc | .dpDec | .dpSetText _ | .dpSetNum _ | .dpGet | .dtStart | .dtStop | .evtRead
  | .evtAck _ => .host

/-- The mnemonics of opcode_table.json. -/
def Instr.mnemonic : Instr → String
  | .pcEnable => "PC_ENABLE"
  | .pcDisable => "PC_DISABLE"
  | .pcClear => "PC_CLEAR"
  | .pcRead => "PC_READ"
  | .pcSetcmp _ => "PC_SETCMP"
  | .wtInit => "WT_INIT"
  | .wtStart => "WT_START"
  | .wtStop => "WT_STOP"
  | .wtRead => "WT_READ"
  | .wtSetcmp _ => "WT_SETCMP"
  | .wtSetruncs _ => "WT_SETRUNCS"
  | .wtClr => "WT_CLR"
  | .syncHold => "SYNC_HOLD"
  | .wtSetcs _ => "WT_SETCS"
  | .pscReset => "PSC_RESET"
  | .syncRelease => "SYNC_RELEASE"
  | .spiWrite8 _ => "SPI_WRITE8"
  | .spiWrite16 _ => "SPI_WRITE16"
  | .dpInc => "DP_INC"
  | .dpDec => "DP_DEC"
  | .dpSetText _ => "DP_SET_TEXT"
  | .dpSetNum _ => "DP_SET_NUM"
  | .dpGet => "DP_GET"
  | .dtStart => "DT_START"
  | .dtStop => "DT_STOP"
  | .evtRead => "EVT_READ"
  | .evtAck _ => "EVT_ACK"
  | .wireWrite _ _ => "WIRE_WRITE"
  | .wireIncr _ _ => "WIRE_INCR"
  | .wireDecr _ _ => "WIRE_DECR"
  | .wireRead _ _ => "WIRE_READ"

/-- One operation as 30_encoding.md R85 writes it: the mnemonic, then the operand (decimal, or the text in double
quotes). A wire word has no written form there; its fields are appended in decimal. -/
def Instr.assembly (i : Instr) : String :=
  match i with
  | .pcSetcmp v | .wtSetcmp v | .spiWrite16 v | .dpSetNum v => i.mnemonic ++ " " ++ toString v.toNat
  | .wtSetruncs v | .wtSetcs v | .spiWrite8 v | .evtAck v => i.mnemonic ++ " " ++ toString v.toNat
  | .dpSetText t => i.mnemonic ++ " \"" ++ String.ofList (t.map fun b => Char.ofNat b.toNat) ++ "\""
  | .wireWrite a d | .wireIncr a d | .wireDecr a d | .wireRead a d =>
    i.mnemonic ++ " " ++ toString a.toNat ++ " " ++ toString d.toNat
  | _ => i.mnemonic

/-- Pseudo-operation `OPEN_WINDOW` (30_encoding.md R86). -/
def openWindow : List Instr := [.pcEnable, .wtStart]

/-- Pseudo-operation `CLOSE_WINDOW` (30_encoding.md R86). -/
def closeWindow : List Instr := [.pcRead, .wtRead, .pcDisable, .wtStop]

/-- Pseudo-operation `SYNC_START_PRIMS c` (30_encoding.md R86). -/
def syncStartPrims (c : Byte) : List Instr := [.wtClr, .syncHold, .wtSetcs c, .pscReset, .syncRelease]

end Sys2Proof
end

