-- ==== Sys2Proof/WellFormed.lean ====
section
/-! DEFINITION. Which terms of `Instr` have an encoding. The operand widths are in the types; the one check left is
the length of `DP_SET_TEXT`'s text, whose count is one byte (30_encoding.md R71, R72). Operand values that the spec
reserves (R77) are well formed: the machine answers them with `ILLEGAL`. -/

namespace Sys2Proof

/-- `len` is one byte, 0 to 255 (30_encoding.md R72). -/
def Instr.wellFormed : Instr → Bool
  | .dpSetText text => decide (text.length ≤ 255)
  | .pcEnable | .pcDisable | .pcClear | .pcRead | .pcSetcmp _ | .wtInit | .wtStart | .wtStop | .wtRead
  | .wtSetcmp _ | .wtSetruncs _ | .wtClr | .syncHold | .wtSetcs _ | .pscReset | .syncRelease | .spiWrite8 _
  | .spiWrite16 _ | .dpInc | .dpDec | .dpSetNum _ | .dpGet | .dtStart | .dtStop | .evtRead | .evtAck _
  | .wireWrite _ _ | .wireIncr _ _ | .wireDecr _ _ | .wireRead _ _ => true

end Sys2Proof
end

