-- ==== Sys2Proof/Decode.lean ====
section
/-! DEFINITION. Decoding of host commands (30_encoding.md R71 to R76) and of wire words (R78 to R82), total on any
bytes and rejecting by name; the encoder; and the numbering of opcode_table.json for the host's own checks. -/

namespace Sys2Proof

/-- Two bytes, the more significant first (20_memory.md R53, R55; 30_encoding.md R72). -/
def joinBytes (hi lo : Byte) : Word := hi ++ lo

/-- `w[15:8]`. -/
def hiByte (w : Word) : Byte := w.extractLsb' 8 8

/-- `w[7:0]`. -/
def loByte (w : Word) : Byte := w.extractLsb' 0 8

/-- Why a byte string is no legal encoding. -/
inductive DecodeError where
  /-- A command of no bytes: shorter than every format (30_encoding.md R76, log 15). -/
  | emptyCommand
  /-- An opcode byte that is not in the table (30_encoding.md R75). -/
  | reservedOpcode (opcode : Byte)
  /-- The length differs from the one the format requires (30_encoding.md R76). -/
  | wrongLength
  /-- A wire word whose command-type code is none of the four; impossible for legal parameters (30_encoding.md R79). -/
  | noCommandType (code : BitVec 2)
deriving DecidableEq, Repr

/-- Format `OP0`: no operand byte. -/
def formatOp0 (i : Instr) : List Byte → Except DecodeError Instr
  | [] => .ok i
  | _ :: _ => .error .wrongLength

/-- Format `OP1`: `imm8` is byte 1. -/
def formatOp1 (f : Byte → Instr) : List Byte → Except DecodeError Instr
  | [imm8] => .ok (f imm8)
  | _ => .error .wrongLength

/-- Format `OP2`: `imm16` = byte 1 ++ byte 2. -/
def formatOp2 (f : Word → Instr) : List Byte → Except DecodeError Instr
  | [hi, lo] => .ok (f (joinBytes hi lo))
  | _ => .error .wrongLength

/-- Format `OPT`: `len`, then `len` text bytes. -/
def formatOpt (f : List Byte → Instr) : List Byte → Except DecodeError Instr
  | len :: text => if text.length = len.toNat then .ok (f text) else .error .wrongLength
  | [] => .error .wrongLength

/-- The host opcode map of 30_encoding.md R74, applied to the bytes after the opcode. -/
def decodeOperands (opcode : Byte) (operands : List Byte) : Except DecodeError Instr :=
  match opcode.toNat with
  | 0x01 => formatOp0 .pcEnable operands
  | 0x02 => formatOp0 .pcDisable operands
  | 0x03 => formatOp0 .pcClear operands
  | 0x04 => formatOp0 .pcRead operands
  | 0x05 => formatOp2 .pcSetcmp operands
  | 0x10 => formatOp0 .wtInit operands
  | 0x11 => formatOp0 .wtStart operands
  | 0x12 => formatOp0 .wtStop operands
  | 0x13 => formatOp0 .wtRead operands
  | 0x14 => formatOp2 .wtSetcmp operands
  | 0x15 => formatOp1 .wtSetruncs operands
  | 0x20 => formatOp0 .wtClr operands
  | 0x21 => formatOp0 .syncHold operands
  | 0x22 => formatOp1 .wtSetcs operands
  | 0x23 => formatOp0 .pscReset operands
  | 0x24 => formatOp0 .syncRelease operands
  | 0x30 => formatOp1 .spiWrite8 operands
  | 0x31 => formatOp2 .spiWrite16 operands
  | 0x40 => formatOp0 .dpInc operands
  | 0x41 => formatOp0 .dpDec operands
  | 0x42 => formatOpt .dpSetText operands
  | 0x43 => formatOp2 .dpSetNum operands
  | 0x44 => formatOp0 .dpGet operands
  | 0x50 => formatOp0 .dtStart operands
  | 0x51 => formatOp0 .dtStop operands
  | 0x60 => formatOp0 .evtRead operands
  | 0x61 => formatOp1 .evtAck operands
  | _ => .error (.reservedOpcode opcode)

/-- A host command: its opcode byte, then its operand bytes (30_encoding.md R71). -/
def decodeCommand : List Byte → Except DecodeError Instr
  | [] => .error .emptyCommand
  | opcode :: operands => decodeOperands opcode operands

/-- `addr`, bits 15:12 of the wire word (30_encoding.md R78). -/
def wireAddr (w : Word) : BitVec 4 := w.extractLsb' 12 4

/-- `cmd`, bits 11:10 of the wire word (30_encoding.md R78). -/
def wireCmd (w : Word) : BitVec 2 := w.extractLsb' 10 2

/-- `data`, bits 9:0 of the wire word (30_encoding.md R78). -/
def wireData (w : Word) : BitVec 10 := w.extractLsb' 0 10

/-- A wire word under the command-type codes of the parameters (30_encoding.md R78, R79). -/
def decodeWire (p : Params) : List Byte → Except DecodeError Instr
  | [hi, lo] =>
    let w := joinBytes hi lo
    if wireCmd w = p.cmdWrite then .ok (.wireWrite (wireAddr w) (wireData w))
    else if wireCmd w = p.cmdIncr then .ok (.wireIncr (wireAddr w) (wireData w))
    else if wireCmd w = p.cmdDecr then .ok (.wireDecr (wireAddr w) (wireData w))
    else if wireCmd w = p.cmdRead then .ok (.wireRead (wireAddr w) (wireData w))
    else .error (.noCommandType (wireCmd w))
  | _ => .error .wrongLength

/-- The decoder, total on any byte string in either encoding space. -/
def decode (p : Params) : EncodingSpace → List Byte → Except DecodeError Instr
  | .host, bytes => decodeCommand bytes
  | .wire, bytes => decodeWire p bytes

/-- The wire word with the given fields, `addr ++ cmd ++ data` (30_encoding.md R78). -/
def wireWord (addr : BitVec 4) (cmd : BitVec 2) (data : BitVec 10) : Word := addr ++ cmd ++ data

/-- The two bytes of a word, high byte first. -/
def wordBytes (w : Word) : List Byte := [hiByte w, loByte w]

/-- The bytes of an instruction: the host command of 30_encoding.md R71 and R74, or the wire word's two bytes. -/
def encode (p : Params) : Instr → List Byte
  | .pcEnable => [0x01]
  | .pcDisable => [0x02]
  | .pcClear => [0x03]
  | .pcRead => [0x04]
  | .pcSetcmp v => 0x05 :: wordBytes v
  | .wtInit => [0x10]
  | .wtStart => [0x11]
  | .wtStop => [0x12]
  | .wtRead => [0x13]
  | .wtSetcmp v => 0x14 :: wordBytes v
  | .wtSetruncs v => [0x15, v]
  | .wtClr => [0x20]
  | .syncHold => [0x21]
  | .wtSetcs v => [0x22, v]
  | .pscReset => [0x23]
  | .syncRelease => [0x24]
  | .spiWrite8 v => [0x30, v]
  | .spiWrite16 v => 0x31 :: wordBytes v
  | .dpInc => [0x40]
  | .dpDec => [0x41]
  | .dpSetText text => 0x42 :: BitVec.ofNat 8 text.length :: text
  | .dpSetNum v => 0x43 :: wordBytes v
  | .dpGet => [0x44]
  | .dtStart => [0x50]
  | .dtStop => [0x51]
  | .evtRead => [0x60]
  | .evtAck v => [0x61, v]
  | .wireWrite a d => wordBytes (wireWord a p.cmdWrite d)
  | .wireIncr a d => wordBytes (wireWord a p.cmdIncr d)
  | .wireDecr a d => wordBytes (wireWord a p.cmdDecr d)
  | .wireRead a d => wordBytes (wireWord a p.cmdRead d)

/-- The number of bytes that a command needs whose opcode is `opcode`, with a text of no characters for format `OPT`
(30_encoding.md R71); 1 for a reserved opcode. -/
def commandLength (opcode : Byte) : Nat :=
  match opcode.toNat with
  | 0x05 | 0x14 | 0x31 | 0x43 => 3
  | 0x15 | 0x22 | 0x30 | 0x61 | 0x42 => 2
  | _ => 1

/-- The low `n` bytes of a number, the least significant first: the bytes of an instruction as opcode_table.json
numbers its bits. -/
def tableBytes : Nat → Nat → List Byte
  | 0, _ => []
  | n + 1, w => BitVec.ofNat 8 w :: tableBytes n (w / 256)

/-- The opcodes of format `OP1`. -/
def isOp1 (opcode : Byte) : Bool :=
  opcode == 0x15 || opcode == 0x22 || opcode == 0x30 || opcode == 0x61

/-- The encoding space and the bytes, as the hardware takes them, of a row of opcode_table.json whose `nbits` bits are
`w`. A row of 16 bits is a wire word, sent high byte first, unless its low byte is the opcode of a two-byte command;
every other row is a host command, byte 0 first, with operand bytes of zero where the row gives them no bits
(log 21). -/
def tableLayout (nbits w : Nat) : EncodingSpace × List Byte :=
  if nbits = 16 && !isOp1 (BitVec.ofNat 8 w) then (.wire, wordBytes (BitVec.ofNat 16 w))
  else (.host, tableBytes (max (nbits / 8) (commandLength (BitVec.ofNat 8 w))) (w % 2 ^ nbits))

/-- What the decoder reads from an instruction whose bits are `w`, numbered as opcode_table.json numbers them, under
the default parameters (the table shows the wire words under the default codes). -/
def decodeTableWord (nbits w : Nat) : Option Instr :=
  match decode Params.default (tableLayout nbits w).1 (tableLayout nbits w).2 with
  | .ok i => some i
  | .error _ => none

end Sys2Proof
end

