-- ==== Sys2Proof/Machine/State.lean ====
section
/-! DEFINITION. The state of the block (10_state.md R10 to R30), grouped by unit, as plain data; the moves of its
agents (00_scope.md R5); the reasons a step can stop; and the state after reset (10_state.md R33). -/

namespace Sys2Proof.Machine

/-- One move of one agent, or one change of the environment (00_scope.md R5, 10_state.md R30). -/
inductive Move where
  /-- SEQ performs the next primitive step of the operation in progress (R28). -/
  | seq
  /-- CLK: one base-clock period, `ClkStep` (41_window_timer.md R120). -/
  | clk
  /-- EDGE: one falling edge of `PULSE_IN`, `EdgeStep` (40_pulse_counter.md R100). -/
  | edge
  /-- SPIENG: one bit step of the shift engine, if it is enabled (43_spi_link.md R164). -/
  | eng
  /-- DT: `DtStep` (45_display_tick.md R216). -/
  | dt
  /-- HOST presents one command (30_encoding.md R71, R76: a whole byte string with its length). -/
  | command (bytes : List Byte)
  /-- The environment changes the condition `spi_ready` (43_spi_link.md R168). -/
  | spiReady (ready : Bool)
  /-- The environment changes the byte order that the next multi-byte read will have (20_memory.md R56). -/
  | readOrder (loFirst : Bool)
  /-- The input `RESET` is asserted (70_reset_and_hazards.md R260). -/
  | reset
deriving DecidableEq, Repr

/-- One write to the output pins (00_scope.md R9 (b), 10_state.md R29). -/
inductive PinWrite where
  | cs (level : Bool)
  | sck (level : Bool)
  | mosi (level : Bool)
  /-- The event pins `PC_EVT_OUT`, `WT_EVT_OUT`, `DT_EVT_OUT` (bits 0, 1, 2) take new levels (60 R235). -/
  | evt (levels : BitVec 3)
  /-- `RESET` drives every output pin to the levels of 70 R261 in one step. -/
  | reset
deriving DecidableEq, Repr

/-- Pulse Counter Unit: `PC_CNT`, `PC_CMP` (R11, R12: `N_PC` bits), `PC_RUN` (R13). -/
structure PulseCounter where
  cnt : Nat
  cmp : Nat
  run : Bool
deriving DecidableEq, Repr

/-- Collection Window Timer: `WT_CNT`, `WT_CMP` (R14, R15: `N_WT` bits), `WT_CS` (R16), `WT_CTC` (R17), `WT_RUNCS`
(R18). -/
structure WindowTimer where
  cnt : Nat
  cmp : Nat
  cs : BitVec 3
  ctc : Bool
  runcs : BitVec 3
deriving DecidableEq, Repr

/-- The shared prescaler and its control: `HOLD` (R19), `PSC` (R20: `PSC_BITS` bits). The reset-prescaler control is
no stored bit (R21). -/
structure Prescaler where
  hold : Bool
  psc : Nat
deriving DecidableEq, Repr

/-- SPI Link: `SPI_SR`, `SPI_BITCNT` (0 to 8), `SPI_BUSY` (R25) and the output latches `SPI_CS`, `SPI_SCK`,
`SPI_MOSI` (R26). -/
structure SpiLink where
  sr : Byte
  bitcnt : Nat
  busy : Bool
  cs : Bool
  sck : Bool
  mosi : Bool
deriving DecidableEq, Repr

/-- Display Tick Timer: `DT_RUN`, `DT_CNT` (R27). -/
structure DisplayTick where
  run : Bool
  cnt : Nat
deriving DecidableEq, Repr

/-- Sequencer: `SEQ_BUSY`, `SEQ_OP`, `SEQ_STEP`, `SEQ_TMP` (R28), and two fields of the model's own. -/
structure Sequencer where
  busy : Bool
  op : List Byte
  step : Nat
  tmp : Word
  /-- MODEL's own (log 6): the encoding space in which `SEQ_OP` is read. -/
  space : EncodingSpace
  /-- MODEL's own (log 11): the byte that the read in progress sampled first. -/
  loFirst : Bool
deriving DecidableEq, Repr

/-- MODEL's own (log 18): what has been observed outside (00_scope.md R9 (a), (b)), the newest first. -/
structure Observed where
  /-- The responses delivered on the command port, each a status byte and value bytes (30_encoding.md R73). -/
  responses : List (List Byte)
  /-- The writes to the output pins. -/
  pinTrace : List PinWrite
deriving DecidableEq, Repr

/-- MODEL's own (log 1, log 9): what the environment does and will do (10_state.md R30: inputs, not state). -/
structure Environment where
  /-- The moves to come, the next one first. -/
  inputs : List Move
  /-- `spi_ready` now (43_spi_link.md R168). -/
  spiReady : Bool
  /-- The byte order that a multi-byte read beginning now would have (20_memory.md R56). -/
  loFirst : Bool
deriving DecidableEq, Repr

/-- The whole state. `cfg` is the constant parameter record of 00_scope.md R6 (log 3). -/
structure State where
  cfg : Params
  pc : PulseCounter
  wt : WindowTimer
  sync : Prescaler
  /-- `EVT` (R22): bit 0 `PC_EVT`, bit 1 `WT_EVT`, bit 2 `DT_EVT`. -/
  evt : BitVec 3
  /-- `DP_SHADOW` (R23). -/
  dp : Word
  spi : SpiLink
  dt : DisplayTick
  seq : Sequencer
  out : Observed
  env : Environment
  /-- MODEL's own (log 5): how many free values have been used. -/
  freeIdx : Nat
deriving DecidableEq, Repr

/-- Why the machine stops. -/
inductive Fault where
  /-- Raised by `performStep` when `SEQ_STEP` is past the last primitive step of the operation in `SEQ_OP`. 10_state.md
  R28 gives such a state no meaning and no run reaches one; the stop is safe (log 14). -/
  | noSuchStep
deriving DecidableEq, Repr

/-- What the model gives no meaning. -/
inductive Refusal where
  /-- Raised by an arm of `exec` that has no meaning yet; safe. No arm of this model uses it. -/
  | notModelled (mnemonic : String)
deriving DecidableEq, Repr

/-- The outcome of a primitive step, of an instruction or of a move. -/
abbrev Result := Host.Outcome State Fault Refusal

/-- The state after reset under the parameters `p` (10_state.md R33, 70_reset_and_hazards.md R261). `SEQ_OP`,
`SEQ_STEP`, `SEQ_TMP` have no meaning there: their values are DESIGN CHOICE (log 8), as are those of the model's own
fields (log 9). -/
def State.resetWith (p : Params) : State where
  cfg := p
  pc := { cnt := 0, cmp := p.pcCmpReset, run := false }
  wt := { cnt := 0, cmp := p.wtCmpReset, cs := 0, ctc := false, runcs := p.wtRuncsReset }
  sync := { hold := false, psc := 0 }
  evt := 0
  dp := BitVec.ofNat 16 p.wiperDefault
  spi := { sr := 0, bitcnt := 0, busy := false, cs := !p.csActiveHigh, sck := p.cpol, mosi := false }
  dt := { run := false, cnt := 0 }
  seq := { busy := false, op := [], step := 0, tmp := 0, space := .host, loFirst := false }
  out := { responses := [], pinTrace := [] }
  env := { inputs := [], spiReady := true, loFirst := true }
  freeIdx := 0

/-- The state after reset under the default parameters. -/
def State.reset : State := State.resetWith Params.default

end Sys2Proof.Machine
end

