-- ==== Sys2Proof/Machine/Flags.lean ====
section
/-! DEFINITION. The event flags `EVT` (10_state.md R22, 60_exceptions.md R231 to R235): setting, acknowledging, the
event pins and the value byte of `EVT_READ`. There are no other flags. -/

namespace Sys2Proof.Machine

/-- `EVT <- v`. The event pins carry the levels of `EVT` and change in the same step (60 R235); the pin trace records
a change of levels only (log 18). -/
def State.setEvt (v : BitVec 3) (s : State) : State :=
  if v = s.evt then s else { s with evt := v, out.pinTrace := .evt v :: s.out.pinTrace }

/-- An event of the source of bit `i` fires: `EVT[i] <- 1`; a flag already set stays set (60 R232). -/
def State.fireEvent (i : Nat) (s : State) : State :=
  s.setEvt (s.evt ||| BitVec.twoPow 3 i)

/-- Bit number of `PC_EVT`. -/
def pcEvt : Nat := 0
/-- Bit number of `WT_EVT`. -/
def wtEvt : Nat := 1
/-- Bit number of `DT_EVT`. -/
def dtEvt : Nat := 2

/-- `EVT & ~imm8[2:0]` (60 R234). -/
def ackedFlags (evt : BitVec 3) (imm8 : Byte) : BitVec 3 :=
  evt &&& ~~~(imm8.extractLsb' 0 3)

/-- The value byte of `EVT_READ`: `0b00000 ++ EVT[2:0]` (60 R233). -/
def evtByte (evt : BitVec 3) : Byte := (0#5 ++ evt)

/-- `PC_EVT_OUT` (60 R235). -/
def State.pcEvtOut (s : State) : Bool := s.evt.getLsbD pcEvt
/-- `WT_EVT_OUT` (60 R235). -/
def State.wtEvtOut (s : State) : Bool := s.evt.getLsbD wtEvt
/-- `DT_EVT_OUT` (60 R235). -/
def State.dtEvtOut (s : State) : Bool := s.evt.getLsbD dtEvt

end Sys2Proof.Machine
end

