-- ==== Sys2Proof/Machine/Operands.lean ====
section
/-! DEFINITION. Operand checks and operand arithmetic: the divisor table, the reserved operand values
(30_encoding.md R77), the decimal text (44_digipot.md R188, R189), the wire word (30_encoding.md R80, R81) and the
byte samples of a counter wider than a byte (20_memory.md R56). -/

namespace Sys2Proof.Machine

/-- `DIV(c)`, if `c` is a key of `DIV` (00_scope.md R6, 41_window_timer.md R128). -/
def divisor (p : Params) (c : Nat) : Option Nat := p.div.lookup c

/-- `c` is a key of `DIV`. -/
def isKey (p : Params) (c : Nat) : Bool := (divisor p c).isSome

/-- R77 (a) and (b): a compare operand that does not fit `n` bits. -/
def exceedsWidth (n : Nat) (imm16 : Word) : Bool := decide (2 ^ n ≤ imm16.toNat)

/-- R77 (c): `imm8` is not a key of `DIV` (0 included). -/
def badRunningSelect (p : Params) (imm8 : Byte) : Bool := !isKey p imm8.toNat

/-- R77 (d): `imm8` is neither 0 nor a key of `DIV`. -/
def badClockSelect (p : Params) (imm8 : Byte) : Bool := decide (imm8 ≠ 0) && !isKey p imm8.toNat

/-- R77 (e): `imm8[7:3]` ≠ 0. -/
def badEventMask (imm8 : Byte) : Bool := decide (imm8.extractLsb' 3 5 ≠ 0)

/-- Which operand values 30_encoding.md R77 reserves. -/
def reservedOperand (p : Params) : Instr → Bool
  | .pcSetcmp v => exceedsWidth p.nPc v
  | .wtSetcmp v => exceedsWidth p.nWt v
  | .wtSetruncs v => badRunningSelect p v
  | .wtSetcs v => badClockSelect p v
  | .evtAck v => badEventMask v
  | .pcEnable | .pcDisable | .pcClear | .pcRead | .wtInit | .wtStart | .wtStop | .wtRead | .wtClr | .syncHold
  | .pscReset | .syncRelease | .spiWrite8 _ | .spiWrite16 _ | .dpInc | .dpDec | .dpSetText _ | .dpSetNum _ | .dpGet
  | .dtStart | .dtStop | .evtRead | .wireWrite _ _ | .wireIncr _ _ | .wireDecr _ _ | .wireRead _ _ => false

/-- An ASCII decimal digit, 0x30 to 0x39 (44 R188 check 2). -/
def isDigit (b : Byte) : Bool := decide (0x30 ≤ b.toNat ∧ b.toNat ≤ 0x39)

/-- `ParseDecimal` (44 R189), the digits weighted by powers of ten, the first the most significant. -/
def parseDecimal : List Byte → Nat
  | [] => 0
  | b :: rest => (b.toNat - 0x30) * 10 ^ rest.length + parseDecimal rest

/-- Check 1 of `DP_SET_TEXT` fails: length 0 or above 3 (44 R188). -/
def badTextLength (text : List Byte) : Bool := decide (text.length = 0 ∨ 3 < text.length)

/-- Check 2 of `DP_SET_TEXT` fails: some byte is no digit (44 R188). -/
def badTextDigit (text : List Byte) : Bool := text.any fun b => !isDigit b

/-- Check 3 of `DP_SET_TEXT` fails: the value exceeds `STEPS` - 1 (44 R188). -/
def badTextValue (p : Params) (text : List Byte) : Bool := decide (p.steps - 1 < parseDecimal text)

/-- The value `DP_INC` writes: min(DP_SHADOW + 1, STEPS - 1), on integers (44 R186). -/
def incremented (p : Params) (shadow : Word) : Nat := min (shadow.toNat + 1) (p.steps - 1)

/-- The value `DP_DEC` writes: max(DP_SHADOW - 1, 0), on integers (44 R187); subtraction of natural numbers stops
at 0. -/
def decremented (shadow : Word) : Nat := shadow.toNat - 1

/-- `DpEncode(addr, cmd, data)` (30_encoding.md R80): the payload is masked to 10 bits (R81). -/
def dpEncode (addr : BitVec 4) (cmd : BitVec 2) (data : Word) : Word :=
  (addr.setWidth 16 <<< 12) ||| (cmd.setWidth 16 <<< 10) ||| (data &&& 0x03FF#16)

/-- The word of 44 R190 that carries a wiper value: `DpEncode(WIPER_ADDR, CMD_WRITE, v)`. -/
def wiperWord (p : Params) (v : Word) : Word := dpEncode p.wiperAddr p.cmdWrite v

/-- The mask of bits `n-1:0`. -/
def widthMask (n : Nat) : Word := BitVec.ofNat 16 (2 ^ n - 1)

/-- `SEQ_TMP[7:0] <- v[7:0]` (40 R105). -/
def sampleLow (v tmp : Word) : Word := (tmp &&& 0xFF00#16) ||| (v &&& 0x00FF#16)

/-- `SEQ_TMP[n-1:8] <- v[n-1:8]` (40 R105). -/
def sampleHigh (n : Nat) (v tmp : Word) : Word :=
  (tmp &&& ~~~(widthMask n &&& 0xFF00#16)) ||| (v &&& (widthMask n &&& 0xFF00#16))

/-- One byte sample of an `n`-bit counter of value `v` (20_memory.md R56). -/
def sample (low : Bool) (n : Nat) (v tmp : Word) : Word :=
  if low then sampleLow v tmp else sampleHigh n v tmp

end Sys2Proof.Machine
end

