-- ==== Sys2Proof/Machine/Ops.lean ====
section
/-! DEFINITION. The named operations that the meanings are made of: primitive steps of the sequencer (10_state.md R28),
the response and the two raises (00_scope.md R7, 60_exceptions.md R225 to R228), pin writes, `SpiFrame`
(43_spi_link.md R163), `DpWrite` (44_digipot.md R190), the two-sample counter read (20_memory.md R56), acceptance of a
command and `RESET` (70_reset_and_hazards.md R260). -/

namespace Sys2Proof.Machine

/-- One primitive step of the sequencer: atomic (20_memory.md R57). -/
abbrev PrimStep := State → Result

/-- SEQ performs the primitive step of index `SEQ_STEP` of an operation given as the list of its steps
(10_state.md R28). -/
def performStep (steps : List PrimStep) (s : State) : Result :=
  match steps[s.seq.step]? with
  | some step => step s
  | none => .fault .noSuchStep

/-- `SEQ_STEP` <- `SEQ_STEP` + 1 (R28). -/
def State.advance (s : State) : State := { s with seq.step := s.seq.step + 1 }

/-- A primitive step that makes the register writes `f`. -/
def write (f : State → State) : PrimStep := fun s => .next (f s).advance

/-- `SEQ_BUSY` <- 0 (R28). -/
def State.idle (s : State) : State := { s with seq.busy := false }

/-- The operation ends and the response, a status byte and value bytes, is delivered (30_encoding.md R73). -/
def State.deliver (status : Byte) (value : List Byte) (s : State) : State :=
  { s.advance.idle with out.responses := (status :: value) :: s.out.responses }

/-- Status `OK` (60 R226). -/
def statusOk : Byte := 0x00
/-- Status `FAIL` (60 R226). -/
def statusFail : Byte := 0x01
/-- Status `ILLEGAL` (60 R226). -/
def statusIllegal : Byte := 0x02

/-- `respond(OK, value)`, with the value read in the same step. -/
def respond (value : State → List Byte) : PrimStep := fun s => .next (s.deliver statusOk (value s))

/-- `respond(OK)`. -/
def respondOk : PrimStep := respond fun _ => []

/-- `raise Fail` (00_scope.md R7, 60 R227). -/
def raiseFail : PrimStep := fun s => .next (s.deliver statusFail [])

/-- `raise Illegal` (00_scope.md R7, 60 R228): nothing but the sequencer changes. -/
def raiseIllegal : PrimStep := fun s => .next (s.deliver statusIllegal [])

/-- The step `if bad then raise Illegal`. -/
def illegalIf (bad : State → Bool) : PrimStep := fun s => if bad s then raiseIllegal s else .next s.advance

/-- The step `if bad then raise Fail`. -/
def failIf (bad : State → Bool) : PrimStep := fun s => if bad s then raiseFail s else .next s.advance

/-- A 16-bit response value: two bytes, the more significant first (20_memory.md R55). -/
def wordValue (w : Word) : List Byte := wordBytes w

/-- `SPI_CS` <- level. -/
def State.driveCs (level : Bool) (s : State) : State :=
  { s with spi.cs := level, out.pinTrace := .cs level :: s.out.pinTrace }

/-- `SPI_SCK` <- level. -/
def State.driveSck (level : Bool) (s : State) : State :=
  { s with spi.sck := level, out.pinTrace := .sck level :: s.out.pinTrace }

/-- `SPI_MOSI` <- level. -/
def State.driveMosi (level : Bool) (s : State) : State :=
  { s with spi.mosi := level, out.pinTrace := .mosi level :: s.out.pinTrace }

/-- `CS_ACTIVE` (43 R163, R166). -/
def csActive (p : Params) : Bool := p.csActiveHigh

/-- `CS_INACTIVE` (43 R163, R166). -/
def csInactive (p : Params) : Bool := !p.csActiveHigh

/-- The step `SPI_CS <- CS_ACTIVE`. -/
def assertCs : PrimStep := write fun s => s.driveCs (csActive s.cfg)

/-- The step `SPI_CS <- CS_INACTIVE`. -/
def releaseCs : PrimStep := write fun s => s.driveCs (csInactive s.cfg)

/-- `SPI_SR <- b ; SPI_BITCNT <- 0 ; SPI_BUSY <- 1`. -/
def State.loadShift (b : Byte) (s : State) : State :=
  { s with spi.sr := b, spi.bitcnt := 0, spi.busy := true }

/-- The step that starts a byte (43 R163). -/
def loadByte (b : State → Byte) : PrimStep := write fun s => s.loadShift (b s)

/-- The step `wait until SPI_BUSY = 0` (43 R167): while the byte is in flight nothing changes, `SEQ_STEP` included
(10_state.md R28). -/
def waitTransfer : PrimStep := fun s => if s.spi.busy then .next s else .next s.advance

/-- The steps of one byte. -/
def byteSteps (b : State → Byte) : List PrimStep := [loadByte b, waitTransfer]

/-- `SpiFrame(bytes)` (43 R163): chip-select, each byte, chip-select. -/
def spiFrame (bytes : List (State → Byte)) : List PrimStep :=
  assertCs :: (bytes.flatMap byteSteps ++ [releaseCs])

/-- `SEQ_TMP` <- v. -/
def State.setTmp (v : Word) (s : State) : State := { s with seq.tmp := v }

/-- `DP_SHADOW <- SEQ_TMP`, unmasked (44 R190, R194). A value that does not fit `SHADOW_BITS` bits, for which no rule
states a result, leaves a free value of that width (log 5). -/
def State.storeShadow (s : State) : State :=
  if s.seq.tmp.toNat < 2 ^ s.cfg.shadowBits then { s with dp := s.seq.tmp }
  else { s with dp := BitVec.ofNat 16 (Config.freeShadow s.freeIdx % 2 ^ s.cfg.shadowBits), freeIdx := s.freeIdx + 1 }

/-- `w`, the word that `DpWrite` sends, from `SEQ_TMP` (44 R190). -/
def tmpWord (s : State) : Word := wiperWord s.cfg s.seq.tmp

/-- `DpWrite(v)` (44 R190): the value is kept unmasked, one frame carries the masked word, then the shadow is written
(R192). -/
def dpWrite (v : State → Nat) : List PrimStep :=
  write (fun s => s.setTmp (BitVec.ofNat 16 (v s)))
    :: (spiFrame [fun s => hiByte (tmpWord s), fun s => loByte (tmpWord s)] ++ [write State.storeShadow])

/-- The first sample of a two-sample read: the environment's choice of byte order is taken and kept for this read
(20_memory.md R56, log 11). -/
def sampleFirst (n count : Nat) : PrimStep := write fun s =>
  { s with seq.loFirst := s.env.loFirst, seq.tmp := sample s.env.loFirst n (BitVec.ofNat 16 count) s.seq.tmp }

/-- The second sample: the other byte. -/
def sampleSecond (n count : Nat) : PrimStep := write fun s =>
  { s with seq.tmp := sample (!s.seq.loFirst) n (BitVec.ofNat 16 count) s.seq.tmp }

/-- The steps of `PC_READ` and `WT_READ` (40 R105, 41 R125) for a counter of `n` bits that holds `count` now. -/
def readSteps (n count : Nat) : List PrimStep :=
  if n ≤ 8 then
    [write fun s => s.setTmp (BitVec.ofNat 16 count), respond fun s => wordValue s.seq.tmp]
  else
    [sampleFirst n count, sampleSecond n count, respond fun s => wordValue (s.seq.tmp &&& widthMask n)]

/-- A wire word as the sequencer's job (log 6): one frame of its two bytes, then the sequencer is idle; there is no
command, so there is no response. -/
def wireFrame (w : Word) : List PrimStep :=
  spiFrame [fun _ => hiByte w, fun _ => loByte w] ++ [fun s => .next s.advance.idle]

/-- Acceptance of a command (10_state.md R28): only when `SEQ_BUSY` = 0; a command presented while `SEQ_BUSY` = 1 is
not accepted (70 R279, log 10). -/
def State.accept (bytes : List Byte) (s : State) : State :=
  if s.seq.busy then s
  else { s with seq.busy := true, seq.op := bytes, seq.step := 0, seq.space := .host }

/-- `RESET` (70 R260): every state element takes its reset value and the operation in progress is abandoned without a
response; the pins go to their reset levels (R261). The parameters, the environment and what has been observed so far
are no state of the block and stay. -/
def State.applyReset (s : State) : State :=
  { State.resetWith s.cfg with
    out := { s.out with pinTrace := .reset :: s.out.pinTrace }, env := s.env, freeIdx := s.freeIdx }

end Sys2Proof.Machine
end

