-- ==== Sys2Proof/Machine/Agents.lean ====
section
/-! DEFINITION. The steps of the hardware agents CLK, EDGE, SPIENG and DT. -/

namespace Sys2Proof.Machine

/-- `EdgeStep` (40_pulse_counter.md R100, R101, R107, R108). -/
def edgeStep (s : State) : State :=
  if s.pc.run && !s.sync.hold then
    let new := (s.pc.cnt + 1) % 2 ^ s.cfg.nPc
    let t := { s with pc.cnt := new }
    if new = s.pc.cmp then t.fireEvent pcEvt else t
  else s

/-- The value that `WtTick` gives `WT_CNT` (41_window_timer.md R121). -/
def tickedCount (s : State) : Nat :=
  if s.wt.ctc && decide (s.wt.cnt = s.wt.cmp) then 0 else (s.wt.cnt + 1) % 2 ^ s.cfg.nWt

/-- `WtTick` (41_window_timer.md R121). -/
def wtTick (s : State) : State :=
  let t := { s with wt.cnt := tickedCount s }
  if tickedCount s = s.wt.cmp then t.fireEvent wtEvt else t

/-- The selected tap completes a period at the prescaler value `psc`: `WT_CS != 0 and psc mod DIV(WT_CS) = 0`
(41_window_timer.md R120). A `WT_CS` that is neither 0 nor a key of `DIV`, which no run reaches, gives no tick
(log 13). -/
def tapTicks (s : State) (psc : Nat) : Bool :=
  decide (s.wt.cs ≠ 0) &&
  match divisor s.cfg s.wt.cs.toNat with
  | some d => decide (psc % d = 0)
  | none => false

/-- `ClkStep` (41_window_timer.md R120). -/
def clkStep (s : State) : State :=
  if s.sync.hold then s
  else
    let new := (s.sync.psc + 1) % 2 ^ s.cfg.pscBits
    let t := { s with sync.psc := new }
    if tapTicks s new then wtTick t else t

/-- The bit that `EngBitStep` shifts out (43_spi_link.md R164; 20_memory.md R54). -/
def shiftedBit (s : State) : Bool :=
  if s.cfg.lsbFirst then s.spi.sr.getLsbD s.spi.bitcnt else s.spi.sr.getLsbD (7 - s.spi.bitcnt)

/-- The three pin writes of one bit, in the order of the clock phase (43 R164, R165). -/
def State.shiftPins (bit : Bool) (s : State) : State :=
  if s.cfg.cpha then ((s.driveSck (!s.cfg.cpol)).driveMosi bit).driveSck s.cfg.cpol
  else ((s.driveMosi bit).driveSck (!s.cfg.cpol)).driveSck s.cfg.cpol

/-- `EngBitStep` (43 R164), enabled when `SPI_BUSY` = 1 and `spi_ready` (R168); when it is not enabled the move
changes nothing (log 12). -/
def engBitStep (s : State) : State :=
  if s.spi.busy && s.env.spiReady then
    let t := s.shiftPins (shiftedBit s)
    { t with spi.bitcnt := s.spi.bitcnt + 1, spi.busy := decide (s.spi.bitcnt + 1 ≠ 8) }
  else s

/-- `DtStep` (45_display_tick.md R216). -/
def dtStep (s : State) : State :=
  let new := (s.dt.cnt + 1) % s.cfg.dtPeriod
  let t := { s with dt.cnt := new }
  if new = 0 ∧ s.dt.run = true then t.fireEvent dtEvt else t

end Sys2Proof.Machine
end

