-- ==== Sys2Proof/Machine/Digipot.lean ====
section
/-! DEFINITION. The operations of the Digital Potentiometer Driver (44_digipot.md). -/

namespace Sys2Proof.Machine

/-- `DP_INC` (R186). The first step forms the clamped value; no other agent writes `DP_SHADOW`, so the step that
stores it in `SEQ_TMP` forms the same value (log 16). -/
def execDpInc (s : State) : Result :=
  performStep (write id :: dpWrite (fun s => incremented s.cfg s.dp) ++ [respond fun s => wordValue s.dp]) s

/-- `DP_DEC` (R187). -/
def execDpDec (s : State) : Result :=
  performStep (write id :: dpWrite (fun s => decremented s.dp) ++ [respond fun s => wordValue s.dp]) s

/-- `DP_SET_TEXT len, text` (R188): the three checks in their order, then the write. -/
def execDpSetText (text : List Byte) (s : State) : Result :=
  performStep (
    failIf (fun _ => badTextLength text) ::
    failIf (fun _ => badTextDigit text) ::
    failIf (fun s => badTextValue s.cfg text) ::
    dpWrite (fun _ => parseDecimal text) ++ [respondOk]) s

/-- `DP_SET_NUM imm16` (R190): no range check. -/
def execDpSetNum (imm16 : Word) (s : State) : Result :=
  performStep (dpWrite (fun _ => imm16.toNat) ++ [respondOk]) s

/-- `DP_GET` (R191). -/
def execDpGet (s : State) : Result := performStep [respond fun s => wordValue s.dp] s

end Sys2Proof.Machine
end

