-- ==== Sys2Proof/Machine/DisplayTick.lean ====
section
/-! DEFINITION. The operations of the Display Tick Timer (45_display_tick.md). -/

namespace Sys2Proof.Machine

/-- `DT_START` (R217). -/
def execDtStart (s : State) : Result :=
  performStep [
    write fun s => { s with dt.run := true },
    respondOk] s

/-- `DT_STOP` (R218). -/
def execDtStop (s : State) : Result :=
  performStep [
    write fun s => { s with dt.run := false },
    respondOk] s

end Sys2Proof.Machine
end

