-- ==== Sys2Proof/Machine/Events.lean ====
section
/-! DEFINITION. The event operations (60_exceptions.md R233, R234). -/

namespace Sys2Proof.Machine

/-- `EVT_READ` (R233). -/
def execEvtRead (s : State) : Result := performStep [respond fun s => [evtByte s.evt]] s

/-- `EVT_ACK imm8` (R234). -/
def execEvtAck (imm8 : Byte) (s : State) : Result :=
  performStep [
    illegalIf fun _ => badEventMask imm8,
    write fun s => s.setEvt (ackedFlags s.evt imm8),
    respondOk] s

end Sys2Proof.Machine
end

