-- ==== Sys2Proof/Machine/PulseCounter.lean ====
section
/-! DEFINITION. The operations of the Pulse Counter Unit (40_pulse_counter.md). -/

namespace Sys2Proof.Machine

/-- `PC_ENABLE` (R102). -/
def execPcEnable (s : State) : Result :=
  performStep [
    write fun s => { s with pc.cnt := 0, pc.run := true },
    respondOk] s

/-- `PC_DISABLE` (R103). -/
def execPcDisable (s : State) : Result :=
  performStep [
    write fun s => { s with pc.run := false },
    respondOk] s

/-- `PC_CLEAR` (R104). -/
def execPcClear (s : State) : Result :=
  performStep [
    write fun s => { s with pc.cnt := 0 },
    respondOk] s

/-- `PC_READ` (R105). -/
def execPcRead (s : State) : Result := performStep (readSteps s.cfg.nPc s.pc.cnt) s

/-- `PC_SETCMP imm16` (R106): `imm16[N_PC-1:0]` is stored. -/
def execPcSetcmp (imm16 : Word) (s : State) : Result :=
  performStep [
    illegalIf fun s => exceedsWidth s.cfg.nPc imm16,
    write fun s => { s with pc.cmp := imm16.toNat % 2 ^ s.cfg.nPc },
    respondOk] s

end Sys2Proof.Machine
end

