-- ==== Sys2Proof/Machine/SpiWrite.lean ====
section
/-! DEFINITION. The operations of the SPI Link (43_spi_link.md R161, R162) and the transmission of wire words
(30_encoding.md R78 to R82). -/

namespace Sys2Proof.Machine

/-- `SPI_WRITE8 imm8` (R161). -/
def execSpiWrite8 (imm8 : Byte) (s : State) : Result :=
  performStep (spiFrame [fun _ => imm8] ++ [respondOk]) s

/-- `SPI_WRITE16 imm16` (R162): the high byte first, one frame. -/
def execSpiWrite16 (imm16 : Word) (s : State) : Result :=
  performStep (spiFrame [fun _ => hiByte imm16, fun _ => loByte imm16] ++ [respondOk]) s

/-- `WIRE_WRITE`: one frame that carries the write-data word (30_encoding.md R80; log 6). -/
def execWireWrite (addr : BitVec 4) (data : BitVec 10) (s : State) : Result :=
  performStep (wireFrame (wireWord addr s.cfg.cmdWrite data)) s

/-- `WIRE_INCR`: one frame that carries the increment word (30_encoding.md R82; log 6). -/
def execWireIncr (addr : BitVec 4) (data : BitVec 10) (s : State) : Result :=
  performStep (wireFrame (wireWord addr s.cfg.cmdIncr data)) s

/-- `WIRE_DECR`: one frame that carries the decrement word (30_encoding.md R82; log 6). -/
def execWireDecr (addr : BitVec 4) (data : BitVec 10) (s : State) : Result :=
  performStep (wireFrame (wireWord addr s.cfg.cmdDecr data)) s

/-- `WIRE_READ`: one frame that carries the read-data word (30_encoding.md R82, R84; log 6). -/
def execWireRead (addr : BitVec 4) (data : BitVec 10) (s : State) : Result :=
  performStep (wireFrame (wireWord addr s.cfg.cmdRead data)) s

end Sys2Proof.Machine
end

