-- ==== Sys2Proof/Machine/SyncStart.lean ====
section
/-! DEFINITION. The synchronized start and its primitive controls (42_sync_start.md). -/

namespace Sys2Proof.Machine

/-- `WT_START` (R146): the five steps of the document with the clear of `PC_CNT` under the hold. -/
def execWtStart (s : State) : Result :=
  performStep [
    write fun s => { s with wt.cnt := 0 },
    write fun s => { s with sync.hold := true },
    write fun s => { s with pc.cnt := 0 },
    write fun s => { s with wt.cs := s.wt.runcs },
    write fun s => { s with sync.psc := 0 },
    write fun s => { s with sync.hold := false },
    respondOk] s

/-- `WT_CLR` (R141). -/
def execWtClr (s : State) : Result :=
  performStep [
    write fun s => { s with wt.cnt := 0 },
    respondOk] s

/-- `SYNC_HOLD` (R142). -/
def execSyncHold (s : State) : Result :=
  performStep [
    write fun s => { s with sync.hold := true },
    respondOk] s

/-- `WT_SETCS imm8` (R143): `imm8[2:0]` is stored. -/
def execWtSetcs (imm8 : Byte) (s : State) : Result :=
  performStep [
    illegalIf fun s => badClockSelect s.cfg imm8,
    write fun s => { s with wt.cs := imm8.extractLsb' 0 3 },
    respondOk] s

/-- `PSC_RESET` (R144). -/
def execPscReset (s : State) : Result :=
  performStep [
    write fun s => { s with sync.psc := 0 },
    respondOk] s

/-- `SYNC_RELEASE` (R145). -/
def execSyncRelease (s : State) : Result :=
  performStep [
    write fun s => { s with sync.hold := false },
    respondOk] s

end Sys2Proof.Machine
end

