-- ==== Sys2Proof/Machine/WindowTimer.lean ====
section
/-! DEFINITION. The operations of the Collection Window Timer (41_window_timer.md), `WT_START` apart. -/

namespace Sys2Proof.Machine

/-- `WT_INIT` (R122). -/
def execWtInit (s : State) : Result :=
  performStep [
    write fun s => { s with wt.ctc := true, wt.cs := 0 },
    respondOk] s

/-- `WT_STOP` (R124). -/
def execWtStop (s : State) : Result :=
  performStep [
    write fun s => { s with wt.cs := 0 },
    respondOk] s

/-- `WT_READ` (R125). -/
def execWtRead (s : State) : Result := performStep (readSteps s.cfg.nWt s.wt.cnt) s

/-- `WT_SETCMP imm16` (R126): `imm16[N_WT-1:0]` is stored. -/
def execWtSetcmp (imm16 : Word) (s : State) : Result :=
  performStep [
    illegalIf fun s => exceedsWidth s.cfg.nWt imm16,
    write fun s => { s with wt.cmp := imm16.toNat % 2 ^ s.cfg.nWt },
    respondOk] s

/-- `WT_SETRUNCS imm8` (R127): `imm8[2:0]` is stored. -/
def execWtSetruncs (imm8 : Byte) (s : State) : Result :=
  performStep [
    illegalIf fun s => badRunningSelect s.cfg imm8,
    write fun s => { s with wt.runcs := imm8.extractLsb' 0 3 },
    respondOk] s

end Sys2Proof.Machine
end

