-- ==== Sys2Proof/Machine/Dispatch.lean ====
section
/-! DEFINITION. One arm per instruction: the primitive step of index `SEQ_STEP` of that operation. -/

namespace Sys2Proof.Machine

def exec (i : Instr) (s : State) : Host.Outcome State Fault Refusal :=
  match i with
  | .pcEnable => Sys2Proof.Machine.execPcEnable s
  | .pcDisable => Sys2Proof.Machine.execPcDisable s
  | .pcClear => Sys2Proof.Machine.execPcClear s
  | .pcRead => Sys2Proof.Machine.execPcRead s
  | .pcSetcmp imm16 => Sys2Proof.Machine.execPcSetcmp imm16 s
  | .wtInit => Sys2Proof.Machine.execWtInit s
  | .wtStart => Sys2Proof.Machine.execWtStart s
  | .wtStop => Sys2Proof.Machine.execWtStop s
  | .wtRead => Sys2Proof.Machine.execWtRead s
  | .wtSetcmp imm16 => Sys2Proof.Machine.execWtSetcmp imm16 s
  | .wtSetruncs imm8 => Sys2Proof.Machine.execWtSetruncs imm8 s
  | .wtClr => Sys2Proof.Machine.execWtClr s
  | .syncHold => Sys2Proof.Machine.execSyncHold s
  | .wtSetcs imm8 => Sys2Proof.Machine.execWtSetcs imm8 s
  | .pscReset => Sys2Proof.Machine.execPscReset s
  | .syncRelease => Sys2Proof.Machine.execSyncRelease s
  | .spiWrite8 imm8 => Sys2Proof.Machine.execSpiWrite8 imm8 s
  | .spiWrite16 imm16 => Sys2Proof.Machine.execSpiWrite16 imm16 s
  | .dpInc => Sys2Proof.Machine.execDpInc s
  | .dpDec => Sys2Proof.Machine.execDpDec s
  | .dpSetText text => Sys2Proof.Machine.execDpSetText text s
  | .dpSetNum imm16 => Sys2Proof.Machine.execDpSetNum imm16 s
  | .dpGet => Sys2Proof.Machine.execDpGet s
  | .dtStart => Sys2Proof.Machine.execDtStart s
  | .dtStop => Sys2Proof.Machine.execDtStop s
  | .evtRead => Sys2Proof.Machine.execEvtRead s
  | .evtAck imm8 => Sys2Proof.Machine.execEvtAck imm8 s
  | .wireWrite addr data => Sys2Proof.Machine.execWireWrite addr data s
  | .wireIncr addr data => Sys2Proof.Machine.execWireIncr addr data s
  | .wireDecr addr data => Sys2Proof.Machine.execWireDecr addr data s
  | .wireRead addr data => Sys2Proof.Machine.execWireRead addr data s

end Sys2Proof.Machine
end

