-- ==== Sys2Proof/Machine/Sequencer.lean ====
section
/-! DEFINITION. The move of SEQ, and what each move of the list of inputs does. -/

namespace Sys2Proof.Machine

/-- The instruction in `SEQ_OP`. -/
def State.fetched (s : State) : Except DecodeError Instr := decode s.cfg s.seq.space s.seq.op

/-- SEQ performs the next primitive step of the operation in progress (00_scope.md R5 (b)); a command that is no legal
encoding does `raise Illegal` (30_encoding.md R75, R76). An idle sequencer has no step. -/
def seqStep (s : State) : Result :=
  if s.seq.busy then
    match s.fetched with
    | .ok i => exec i s
    | .error _ => raiseIllegal s
  else .next s

/-- What one move does. -/
def takeMove (m : Move) (s : State) : Result :=
  match m with
  | .seq => seqStep s
  | .clk => .next (clkStep s)
  | .edge => .next (edgeStep s)
  | .eng => .next (engBitStep s)
  | .dt => .next (dtStep s)
  | .command bytes => .next (s.accept bytes)
  | .spiReady ready => .next { s with env.spiReady := ready }
  | .readOrder loFirst => .next { s with env.loFirst := loFirst }
  | .reset => .next s.applyReset

/-- The move that comes next: the first of the list of inputs. When the list is used up the environment does nothing
more, and the engine (while a byte is in flight) or else the sequencer goes on (log 2). -/
def State.nextMove (s : State) : Move :=
  match s.env.inputs with
  | m :: _ => m
  | [] => if s.spi.busy then .eng else .seq

/-- The state with the next move taken off the list. -/
def State.popMove (s : State) : State := { s with env.inputs := s.env.inputs.tail }

/-- The sequencer with the instruction of an opcode-table row as its operation, before its first primitive step, and
its own move next. -/
def State.placeInstruction (space : EncodingSpace) (bytes : List Byte) (s : State) : State :=
  { s with
    seq.busy := true, seq.op := bytes, seq.step := 0, seq.space := space,
    env.inputs := .seq :: s.env.inputs }

end Sys2Proof.Machine
end

