-- ==== Sys2Proof/Machine/Step.lean ====
section
/-! DEFINITION. One step of the machine: one move of one agent (00_scope.md R5, 20_memory.md R60). -/

namespace Sys2Proof.Machine

/-- One step: the next move is taken. -/
def step (s : State) : Host.Outcome State Fault Refusal :=
  takeMove s.nextMove s.popMove

/-- `s` with the instruction of an opcode-table row whose bits are `w` as the operation that the next step runs
(log 21, log 22). -/
def State.withFetchWord (s : State) (nbits w : Nat) : State :=
  s.placeInstruction (tableLayout nbits w).1 (tableLayout nbits w).2

end Sys2Proof.Machine
end

