-- ==== Sys2Proof/Safety.lean ====
section
/-! DEFINITION. What claims about the block are stated in: runs over a list of moves, the invariant of the machine,
the receiver of the SPI wire (43_spi_link.md R172), and the wiper invariant (10_state.md R32, 44_digipot.md R193). -/

namespace Sys2Proof.Machine

/-- `s` with the moves `ms` as the moves to come. -/
def State.withInputs (ms : List Move) (s : State) : State := { s with env.inputs := ms }

/-- The run of the machine over exactly the moves `ms`, in their order. -/
def runMoves (ms : List Move) (s : State) : Result :=
  Host.Core.run Sys2Proof.core ms.length (s.withInputs ms)

/-- `s` with the units of `x` other than the SPI Link and the sequencer: the two counting units, the prescaler, the
events, the shadow and the display tick timer. -/
def withUnitsOf (x s : State) : State :=
  { s with pc := x.pc, wt := x.wt, sync := x.sync, evt := x.evt, dp := x.dp, dt := x.dt }

/-- `f` applied to the next state of an outcome. -/
def onNext (f : State → State) : Result → Result
  | .next s => .next (f s)
  | .fault r => .fault r
  | .refused r => .refused r

/-- An outcome, and what follows it if it is a next state. -/
def andThen (r : Result) (f : State → Result) : Result :=
  match r with
  | .next s => f s
  | .fault e => .fault e
  | .refused e => .refused e

/-! ### Where the primitive steps of an operation stand -/

/-- The number of primitive steps of an operation (10_state.md R28 and each operation's rule). -/
def stepCount (p : Params) : Instr → Nat
  | .pcEnable | .pcDisable | .pcClear | .wtInit | .wtStop | .wtClr | .syncHold | .pscReset | .syncRelease
  | .dtStart | .dtStop => 2
  | .pcRead => if p.nPc ≤ 8 then 2 else 3
  | .wtRead => if p.nWt ≤ 8 then 2 else 3
  | .pcSetcmp _ | .wtSetcmp _ | .wtSetruncs _ | .wtSetcs _ | .evtAck _ => 3
  | .wtStart => 7
  | .spiWrite8 _ => 5
  | .spiWrite16 _ | .wireWrite _ _ | .wireIncr _ _ | .wireDecr _ _ | .wireRead _ _ => 7
  | .dpInc | .dpDec => 10
  | .dpSetText _ => 12
  | .dpSetNum _ => 9
  | .dpGet | .evtRead => 1

/-- The frame of an operation (43_spi_link.md R163): the index of the step that asserts chip-select, and the number of
bytes. -/
def frameAt : Instr → Option (Nat × Nat)
  | .spiWrite8 _ => some (0, 1)
  | .spiWrite16 _ | .wireWrite _ _ | .wireIncr _ _ | .wireDecr _ _ | .wireRead _ _ => some (0, 2)
  | .dpSetNum _ => some (1, 2)
  | .dpInc | .dpDec => some (2, 2)
  | .dpSetText _ => some (4, 2)
  | .pcEnable | .pcDisable | .pcClear | .pcRead | .pcSetcmp _ | .wtInit | .wtStart | .wtStop | .wtRead
  | .wtSetcmp _ | .wtSetruncs _ | .wtClr | .syncHold | .wtSetcs _ | .pscReset | .syncRelease | .dpGet
  | .dtStart | .dtStop | .evtRead | .evtAck _ => none

/-- Before the step of index `k`, chip-select has been asserted and not released. -/
def inFrame (i : Instr) (k : Nat) : Bool :=
  match frameAt i with
  | some (a, n) => decide (a < k ∧ k ≤ a + 2 * n + 1)
  | none => false

/-- The step of index `k` is one of the operation's `wait until SPI_BUSY = 0` steps. -/
def isWait (i : Instr) (k : Nat) : Bool :=
  match frameAt i with
  | some (a, n) => decide (k = a + 2 ∨ (n = 2 ∧ k = a + 4))
  | none => false

/-! ### What the rules say of a step, as states -/

/-- The operation has ended with the response `status`, `value` (30_encoding.md R73; 10_state.md R28): nothing but the
sequencer and the port changes. -/
def ended (status : Byte) (value : List Byte) (s : State) : State :=
  { s with
    seq.busy := false, seq.step := s.seq.step + 1,
    out.responses := (status :: value) :: s.out.responses }

/-- The step that writes chip-select (43_spi_link.md R163). -/
def csWritten (level : Bool) (s : State) : State :=
  { s with spi.cs := level, out.pinTrace := .cs level :: s.out.pinTrace, seq.step := s.seq.step + 1 }

/-- The step that starts a byte (43_spi_link.md R163). -/
def byteStarted (b : Byte) (s : State) : State :=
  { s with spi.sr := b, spi.bitcnt := 0, spi.busy := true, seq.step := s.seq.step + 1 }

/-- The step that waits for transfer-complete (43_spi_link.md R167; 10_state.md R28). -/
def waited (s : State) : State :=
  if s.spi.busy = true then s else { s with seq.step := s.seq.step + 1 }

/-- Step `j` of a frame of two bytes (43_spi_link.md R163). -/
def wordFrameStep (hi lo : Byte) (j : Nat) (s : State) : State :=
  match j with
  | 0 => csWritten s.cfg.csActiveHigh s
  | 1 => byteStarted hi s
  | 2 => waited s
  | 3 => byteStarted lo s
  | 4 => waited s
  | _ => csWritten (!s.cfg.csActiveHigh) s

/-- The formats of host commands (30_encoding.md R71). -/
inductive Format where
  | op0
  | op1
  | op2
  | opt
deriving DecidableEq, Repr

/-- The opcode map (30_encoding.md R74). -/
def hostOpcodes : List (Byte × Format) := [
  (0x01, .op0), (0x02, .op0), (0x03, .op0), (0x04, .op0), (0x05, .op2),
  (0x10, .op0), (0x11, .op0), (0x12, .op0), (0x13, .op0), (0x14, .op2), (0x15, .op1),
  (0x20, .op0), (0x21, .op0), (0x22, .op1), (0x23, .op0), (0x24, .op0),
  (0x30, .op1), (0x31, .op2),
  (0x40, .op0), (0x41, .op0), (0x42, .opt), (0x43, .op2), (0x44, .op0),
  (0x50, .op0), (0x51, .op0), (0x60, .op0), (0x61, .op1)]

/-- The length in bytes of a command of a format, given the bytes after the opcode (30_encoding.md R71). -/
def requiredLength (f : Format) (operands : List Byte) : Nat :=
  match f with
  | .op0 => 1
  | .op1 => 2
  | .op2 => 3
  | .opt => 2 + (operands.headD 0).toNat

/-! ### The invariant of the machine -/

/-- The instruction in progress has a property; false when the sequencer is idle or `SEQ_OP` does not decode. -/
def State.inProgress (s : State) (f : Instr → Bool) : Bool :=
  s.seq.busy && match s.fetched with
    | .ok i => f i
    | .error _ => false

/-- Every register is inside its width or its legal values (10_state.md R11 to R27). -/
def State.registersInRange (s : State) : Bool :=
  decide (s.pc.cnt < 2 ^ s.cfg.nPc) && decide (s.pc.cmp < 2 ^ s.cfg.nPc) &&
  decide (s.wt.cnt < 2 ^ s.cfg.nWt) && decide (s.wt.cmp < 2 ^ s.cfg.nWt) &&
  (decide (s.wt.cs = 0) || isKey s.cfg s.wt.cs.toNat) && isKey s.cfg s.wt.runcs.toNat &&
  decide (s.sync.psc < 2 ^ s.cfg.pscBits) && decide (s.dt.cnt < s.cfg.dtPeriod) &&
  decide (s.dp.toNat < 2 ^ s.cfg.shadowBits)

/-- While an operation is in progress `SEQ_STEP` is the index of one of its primitive steps (10_state.md R28), and a
command with a reserved operand is still before its first step (30_encoding.md R77). -/
def State.stepInRange (s : State) : Bool :=
  !s.seq.busy || match s.fetched with
    | .ok i => decide (s.seq.step < stepCount s.cfg i) && (!reservedOperand s.cfg i || decide (s.seq.step = 0))
    | .error _ => decide (s.seq.step = 0)

/-- The SPI Link is where the operation in progress has brought it: the clock idles between bits, chip-select is
active exactly inside a frame, and a byte is in flight only at a wait step (43_spi_link.md R163, R164, R169;
70_reset_and_hazards.md R278). -/
def State.linkInStep (s : State) : Bool :=
  decide (s.spi.sck = s.cfg.cpol) &&
  decide (s.spi.cs = if s.inProgress (fun i => inFrame i s.seq.step) then csActive s.cfg else csInactive s.cfg) &&
  decide (s.spi.bitcnt ≤ 8) &&
  (!s.spi.busy || (s.inProgress (fun i => isWait i s.seq.step) && decide (s.spi.bitcnt < 8)))

/-- The invariant of the machine: what holds of every state that a run from reset under legal parameters reaches. -/
def State.Inv (s : State) : Prop :=
  s.cfg.legal = true ∧ s.registersInRange = true ∧ s.stepInRange = true ∧ s.linkInStep = true

/-! ### The receiver of the SPI wire -/

/-- What a receiver that follows the configured mode holds (43_spi_link.md R165, R172). -/
structure Receiver where
  selected : Bool
  sck : Bool
  mosi : Bool
  /-- The bits sampled in the frame so far, in their order. -/
  bits : List Bool
  /-- The completed frames, the newest first. -/
  frames : List (List Bool)
deriving DecidableEq, Repr

/-- The receiver before the first pin write. -/
def Receiver.start (p : Params) : Receiver :=
  { selected := false, sck := p.cpol, mosi := false, bits := [], frames := [] }

/-- The change of `SPI_SCK` to `level` is a sampling edge: the leading edge when `SPI_CPHA` = 0, the trailing edge
when it is 1 (43_spi_link.md R165). -/
def Receiver.samplesAt (p : Params) (level : Bool) (r : Receiver) : Bool :=
  r.selected && (level != r.sck) && (if p.cpha then level == p.cpol else level != p.cpol)

/-- The receiver sees one pin write. Chip-select going inactive, or `RESET`, ends the frame (70 R261). -/
def Receiver.see (p : Params) (w : PinWrite) (r : Receiver) : Receiver :=
  match w with
  | .cs level =>
    if level = csActive p then { r with selected := true, bits := [] }
    else if r.selected then { r with selected := false, bits := [], frames := r.bits :: r.frames }
    else r
  | .sck level =>
    if r.samplesAt p level then { r with sck := level, bits := r.bits ++ [r.mosi] } else { r with sck := level }
  | .mosi level => { r with mosi := level }
  | .evt _ => r
  | .reset =>
    { selected := false, sck := p.cpol, mosi := false, bits := []
      frames := if r.selected then r.bits :: r.frames else r.frames }

/-- The receiver after the pin writes `trace`, the newest of which is first. -/
def received (p : Params) (trace : List PinWrite) : Receiver :=
  trace.foldr (Receiver.see p) (Receiver.start p)

/-- The bits of one byte in the order in which they leave (20_memory.md R54). -/
def byteBits (p : Params) (b : Byte) : List Bool :=
  (List.range 8).map fun k => if p.lsbFirst then b.getLsbD k else b.getMsbD k

/-- The bits of one word in the order in which they leave: the high byte first (20_memory.md R53, R54). -/
def wordBits (p : Params) (w : Word) : List Bool := byteBits p (hiByte w) ++ byteBits p (loByte w)

/-- The receiver's view agrees with the pins. -/
def State.receiverAgrees (s : State) : Bool :=
  let r := received s.cfg s.out.pinTrace
  decide (r.selected = (s.spi.cs == csActive s.cfg)) && decide (r.sck = s.spi.sck) && decide (r.mosi = s.spi.mosi)

/-- A write to `SPI_CS`. -/
def isCsWrite : PinWrite → Bool
  | .cs _ => true
  | .sck _ | .mosi _ | .evt _ | .reset => false

/-! ### The wiper invariant -/

/-- A numeric operand in the device's range (44_digipot.md R193, 70 R270). -/
def wiperOperandInRange (p : Params) : Instr → Bool
  | .dpSetNum v => decide (v.toNat < p.steps)
  | .pcEnable | .pcDisable | .pcClear | .pcRead | .pcSetcmp _ | .wtInit | .wtStart | .wtStop | .wtRead
  | .wtSetcmp _ | .wtSetruncs _ | .wtClr | .syncHold | .wtSetcs _ | .pscReset | .syncRelease | .spiWrite8 _
  | .spiWrite16 _ | .dpInc | .dpDec | .dpSetText _ | .dpGet | .dtStart | .dtStop | .evtRead | .evtAck _
  | .wireWrite _ _ | .wireIncr _ _ | .wireDecr _ _ | .wireRead _ _ => true

/-- Before the step of index `k` of a mutating driver operation, `SEQ_TMP` holds the value being written
(44_digipot.md R190). -/
def holdsWiper (i : Instr) (k : Nat) : Bool :=
  match i with
  | .dpInc | .dpDec => decide (2 ≤ k ∧ k ≤ 8)
  | .dpSetText _ => decide (4 ≤ k ∧ k ≤ 10)
  | .dpSetNum _ => decide (1 ≤ k ∧ k ≤ 7)
  | .pcEnable | .pcDisable | .pcClear | .pcRead | .pcSetcmp _ | .wtInit | .wtStart | .wtStop | .wtRead
  | .wtSetcmp _ | .wtSetruncs _ | .wtClr | .syncHold | .wtSetcs _ | .pscReset | .syncRelease | .spiWrite8 _
  | .spiWrite16 _ | .dpGet | .dtStart | .dtStop | .evtRead | .evtAck _
  | .wireWrite _ _ | .wireIncr _ _ | .wireDecr _ _ | .wireRead _ _ => false

/-- The range check of `DP_SET_TEXT` has been made and passed before the step of index `k` (44_digipot.md R188). -/
def textChecked (p : Params) (i : Instr) (k : Nat) : Bool :=
  match i with
  | .dpSetText text => decide (k < 3) || !badTextValue p text
  | .pcEnable | .pcDisable | .pcClear | .pcRead | .pcSetcmp _ | .wtInit | .wtStart | .wtStop | .wtRead
  | .wtSetcmp _ | .wtSetruncs _ | .wtClr | .syncHold | .wtSetcs _ | .pscReset | .syncRelease | .spiWrite8 _
  | .spiWrite16 _ | .dpInc | .dpDec | .dpSetNum _ | .dpGet | .dtStart | .dtStop | .evtRead | .evtAck _
  | .wireWrite _ _ | .wireIncr _ _ | .wireDecr _ _ | .wireRead _ _ => true

/-- The wiper invariant: `DP_SHADOW`, and the value that a driver operation in progress is writing, are wiper
positions (10_state.md R32, 44_digipot.md R193). -/
def State.wiperInRange (s : State) : Bool :=
  decide (s.dp.toNat < s.cfg.steps) &&
  (!s.seq.busy || match s.fetched with
    | .ok i => wiperOperandInRange s.cfg i && textChecked s.cfg i s.seq.step &&
        (!holdsWiper i s.seq.step || decide (s.seq.tmp.toNat < s.cfg.steps))
    | .error _ => true)

/-- A move that presents no out-of-range numeric operand to the driver (70_reset_and_hazards.md R270). -/
def Move.keepsWiperRange (p : Params) (m : Move) : Bool :=
  match m with
  | .command bytes =>
    match decodeCommand bytes with
    | .ok i => wiperOperandInRange p i
    | .error _ => true
  | .seq | .clk | .edge | .eng | .dt | .spiReady _ | .readOrder _ | .reset => true

end Sys2Proof.Machine
end

