-- ==== Sys2Proof/Certificates/Slice0/Obligations.lean ====
section
/-! DEFINITION. The statements about the block, for the provers. Each docstring names the rule it formalises; rules are
those of spec/. `exec i s` is the primitive step of index `SEQ_STEP` of the operation `i` (10_state.md R28), `takeMove`
one move of one agent (00_scope.md R5), `runMoves` a run over a list of moves, that is one interleaving. -/

open Sys2Proof Sys2Proof.Machine

/-! ### Encoding -/

/-- 30_encoding.md R71, R72, R74, R78: decoding the bytes of a well-formed instruction gives the instruction back. -/
def Obligations.DecodeEncodeRoundTrip : Prop :=
  ∀ (p : Params) (i : Instr), p.codesDistinct = true → i.wellFormed = true →
    decode p i.space (encode p i) = .ok i

/-- 30_encoding.md R71, R72, R74, R78: whatever a byte string decodes to, its bytes are that instruction's encoding, so
no two byte strings of one encoding space mean the same instruction. -/
def Obligations.EncodeInvertsDecode : Prop :=
  ∀ (p : Params) (sp : EncodingSpace) (bytes : List Byte) (i : Instr), decode p sp bytes = .ok i →
    encode p i = bytes ∧ i.space = sp ∧ i.wellFormed = true

/-- 30_encoding.md R74, R78; 95_test_vectors.md 2.1: words written out bit by bit decode to their instruction. -/
def Obligations.SpecWordsDecode : Prop :=
  decodeCommand [0b00000001] = .ok .pcEnable ∧
  decodeCommand [0b00000101, 0b00000000, 0b00100000] = .ok (.pcSetcmp 32) ∧
  decodeCommand [0b00010100, 0b00000011, 0b11100111] = .ok (.wtSetcmp 999) ∧
  decodeCommand [0b00100010, 0b00000010] = .ok (.wtSetcs 2) ∧
  decodeCommand [0b00110000, 0b10100101] = .ok (.spiWrite8 0xA5) ∧
  decodeCommand [0b01000010, 0b00000011, 0b00110001, 0b00110000, 0b00110000] =
    .ok (.dpSetText [0x31, 0x30, 0x30]) ∧
  decodeCommand [0b01010000] = .ok .dtStart ∧
  decodeCommand [0b01100001, 0b00000111] = .ok (.evtAck 7) ∧
  decodeWire Params.default [0b01010001, 0b01010101] = .ok (.wireWrite 5 0x155) ∧
  decodeWire Params.default [0b00001100, 0b00000000] = .ok (.wireRead 0 0)

/-- 30_encoding.md R75: every opcode outside the map, 229 of the 256, does `raise Illegal`: nothing changes but the
sequencer, and the response is the single byte 0x02. -/
def Obligations.ReservedOpcodeAnswersIllegal : Prop :=
  ((List.range 256).filter fun n => !(hostOpcodes.map (·.1)).contains (BitVec.ofNat 8 n)).length = 229 ∧
  ∀ (s : State) (opcode : Byte) (operands : List Byte), opcode ∉ hostOpcodes.map (·.1) →
    s.seq.busy = true → s.seq.space = .host → s.seq.op = opcode :: operands →
    seqStep s = .next (ended 0x02 [] s)

/-- 30_encoding.md R76: a command of another length than its format requires does `raise Illegal`, and one of the
required length is a command. -/
def Obligations.WrongLengthAnswersIllegal : Prop :=
  ∀ (s : State) (opcode : Byte) (f : Format) (operands : List Byte), (opcode, f) ∈ hostOpcodes →
    s.seq.busy = true → s.seq.space = .host → s.seq.op = opcode :: operands →
    ((opcode :: operands).length ≠ requiredLength f operands → seqStep s = .next (ended 0x02 [] s)) ∧
    ((opcode :: operands).length = requiredLength f operands → ∃ i, s.fetched = .ok i)

/-- 30_encoding.md R78, R80, R81: the three fields of `DpEncode`, the payload being the value modulo 1024. -/
def Obligations.DpEncodeFields : Prop :=
  ∀ (addr : BitVec 4) (cmd : BitVec 2) (data : Word),
    wireAddr (dpEncode addr cmd data) = addr ∧ wireCmd (dpEncode addr cmd data) = cmd ∧
    (wireData (dpEncode addr cmd data)).toNat = data.toNat % 1024 ∧
    (dpEncode addr cmd data).toNat = addr.toNat * 4096 + cmd.toNat * 1024 + data.toNat % 1024

/-- 44_digipot.md R189: `ParseDecimal` is the sum of the digits times powers of ten, at most 999 for three digits. -/
def Obligations.ParseDecimalIsDecimalValue : Prop :=
  ∀ text : List Byte,
    parseDecimal text = ∑ i ∈ Finset.range text.length,
      ((text.getD i 0).toNat - 0x30) * 10 ^ (text.length - 1 - i) ∧
    (text.length ≤ 3 → (∀ b ∈ text, 0x30 ≤ b.toNat ∧ b.toNat ≤ 0x39) → parseDecimal text ≤ 999)

/-! ### Steps, commands and the sequencer -/

/-- 00_scope.md R5 (b), 10_state.md R28: when SEQ moves and `SEQ_OP` decodes to `i`, the step is `exec i` on the state
with that move taken off the list. -/
def Obligations.StepRunsDecodedOperation : Prop :=
  ∀ (s : State) (ms : List Move) (i : Instr), s.env.inputs = .seq :: ms → s.seq.busy = true →
    decode s.cfg s.seq.space s.seq.op = .ok i →
    step s = exec i { s with env.inputs := ms }

/-- The model's own (log 21, log 22): the step after `withFetchWord` runs the first primitive step of the instruction
that the decoder reads from the placed bytes. -/
def Obligations.PlacedInstructionRunsNext : Prop :=
  ∀ (s : State) (nbits w : Nat) (i : Instr),
    decode s.cfg (tableLayout nbits w).1 (tableLayout nbits w).2 = .ok i →
    step (s.withFetchWord nbits w) = exec i { s with
      seq.busy := true, seq.op := (tableLayout nbits w).2, seq.step := 0, seq.space := (tableLayout nbits w).1 }

/-- 10_state.md R28, 20_memory.md R61, 70_reset_and_hazards.md R279: a command is accepted when `SEQ_BUSY` = 0 and
changes only the sequencer; presented while `SEQ_BUSY` = 1 it changes nothing (log 10). -/
def Obligations.CommandAcceptedOnlyWhenIdle : Prop :=
  ∀ (s : State) (ms : List Move) (bytes : List Byte), s.env.inputs = .command bytes :: ms →
    (s.seq.busy = false → step s = .next { s with
      seq.busy := true, seq.op := bytes, seq.step := 0, seq.space := .host, env.inputs := ms }) ∧
    (s.seq.busy = true → step s = .next { s with env.inputs := ms })

/-- Every instruction answers a next state at each of its primitive steps, whatever the rest of the state; past the
last of them, where no run comes, the machine faults (log 14). -/
def Obligations.EveryInstructionAnswers : Prop :=
  ∀ (i : Instr) (s : State),
    (s.seq.step < stepCount s.cfg i → ∃ t, exec i s = .next t) ∧
    (stepCount s.cfg i ≤ s.seq.step → exec i s = .fault .noSuchStep)

/-- 10_state.md R28, R24: a wait whose byte is still in flight changes nothing, every other primitive step moves
`SEQ_STEP` on by 1, and no operation changes the parameters, the environment, `SEQ_OP` or the space in which it is
read. -/
def Obligations.PrimitiveStepAdvances : Prop :=
  ∀ (i : Instr) (s t : State), exec i s = .next t →
    (s.spi.busy = true ∧ isWait i s.seq.step = true → t = s) ∧
    (s.spi.busy = false ∨ isWait i s.seq.step = false → t.seq.step = s.seq.step + 1) ∧
    t.cfg = s.cfg ∧ t.env = s.env ∧ t.seq.op = s.seq.op ∧ t.seq.space = s.seq.space

/-- 30_encoding.md R73, 60_exceptions.md R225: a host command's end is exactly one response, and no other move delivers
one; RESET abandons the operation without a response. -/
def Obligations.OneResponsePerCommand : Prop :=
  ∀ (m : Move) (s t : State), takeMove m s = .next t → s.seq.space = .host →
    (m ≠ .reset → s.seq.busy = true → t.seq.busy = false → ∃ r, t.out.responses = r :: s.out.responses) ∧
    (s.seq.busy = false ∨ t.seq.busy = true ∨ m = .reset → t.out.responses = s.out.responses)

/-! ### Pulse Counter Unit -/

/-- 40_pulse_counter.md R102, R103, R104: the primitive steps of `PC_ENABLE`, `PC_DISABLE`, `PC_CLEAR`; nothing else
changes. -/
def Obligations.PulseCounterControls : Prop :=
  decodeCommand [0x01] = .ok .pcEnable ∧ decodeCommand [0x02] = .ok .pcDisable ∧
  decodeCommand [0x03] = .ok .pcClear ∧
  ∀ s : State,
    (s.seq.step = 0 → exec .pcEnable s = .next { s with pc.cnt := 0, pc.run := true, seq.step := 1 }) ∧
    (s.seq.step = 1 → exec .pcEnable s = .next (ended 0x00 [] s)) ∧
    (s.seq.step = 0 → exec .pcDisable s = .next { s with pc.run := false, seq.step := 1 }) ∧
    (s.seq.step = 1 → exec .pcDisable s = .next (ended 0x00 [] s)) ∧
    (s.seq.step = 0 → exec .pcClear s = .next { s with pc.cnt := 0, seq.step := 1 }) ∧
    (s.seq.step = 1 → exec .pcClear s = .next (ended 0x00 [] s))

/-- 40_pulse_counter.md R105, 20_memory.md R56: the primitive steps of `PC_READ`: one sample of a counter of at most 8
bits, two byte samples in the order the environment chose of a wider one, then the response, zero-extended, high byte
first. That the order is taken at the first sample and kept for the second is the model's choice (log 11). -/
def Obligations.PulseCounterRead : Prop :=
  decodeCommand [0x04] = .ok .pcRead ∧
  ∀ s : State,
    (s.cfg.nPc ≤ 8 → s.seq.step = 0 →
      exec .pcRead s = .next { s with seq.tmp := BitVec.ofNat 16 s.pc.cnt, seq.step := 1 }) ∧
    (s.cfg.nPc ≤ 8 → s.seq.step = 1 →
      exec .pcRead s = .next (ended 0x00 [s.seq.tmp.extractLsb' 8 8, s.seq.tmp.extractLsb' 0 8] s)) ∧
    (8 < s.cfg.nPc → s.seq.step = 0 → ∃ v : Word,
      exec .pcRead s = .next { s with seq.tmp := v, seq.loFirst := s.env.loFirst, seq.step := 1 } ∧
      ∀ k < 16, v.getLsbD k =
        if (if s.env.loFirst = true then k < 8 else 8 ≤ k ∧ k < s.cfg.nPc) then s.pc.cnt.testBit k
        else s.seq.tmp.getLsbD k) ∧
    (8 < s.cfg.nPc → s.seq.step = 1 → ∃ v : Word,
      exec .pcRead s = .next { s with seq.tmp := v, seq.step := 2 } ∧
      ∀ k < 16, v.getLsbD k =
        if (if s.seq.loFirst = true then 8 ≤ k ∧ k < s.cfg.nPc else k < 8) then s.pc.cnt.testBit k
        else s.seq.tmp.getLsbD k) ∧
    (8 < s.cfg.nPc → s.seq.step = 2 → ∃ v : Word,
      exec .pcRead s = .next (ended 0x00 [v.extractLsb' 8 8, v.extractLsb' 0 8] s) ∧
      ∀ k < 16, v.getLsbD k = (decide (k < s.cfg.nPc) && s.seq.tmp.getLsbD k))

/-- 40_pulse_counter.md R106, 41_window_timer.md R126: the primitive steps of `PC_SETCMP` and `WT_SETCMP`, and `ILLEGAL`
for an operand that does not fit the register. -/
def Obligations.CompareRegisterWrites : Prop :=
  (∀ hi lo : Byte, decodeCommand [0x05, hi, lo] = .ok (.pcSetcmp (hi ++ lo)) ∧
    decodeCommand [0x14, hi, lo] = .ok (.wtSetcmp (hi ++ lo))) ∧
  ∀ (s : State) (imm16 : Word),
    (s.seq.step = 0 → 2 ^ s.cfg.nPc ≤ imm16.toNat → exec (.pcSetcmp imm16) s = .next (ended 0x02 [] s)) ∧
    (s.seq.step = 0 → imm16.toNat < 2 ^ s.cfg.nPc → exec (.pcSetcmp imm16) s = .next { s with seq.step := 1 }) ∧
    (s.seq.step = 1 → exec (.pcSetcmp imm16) s =
      .next { s with pc.cmp := imm16.toNat % 2 ^ s.cfg.nPc, seq.step := 2 }) ∧
    (s.seq.step = 2 → exec (.pcSetcmp imm16) s = .next (ended 0x00 [] s)) ∧
    (s.seq.step = 0 → 2 ^ s.cfg.nWt ≤ imm16.toNat → exec (.wtSetcmp imm16) s = .next (ended 0x02 [] s)) ∧
    (s.seq.step = 0 → imm16.toNat < 2 ^ s.cfg.nWt → exec (.wtSetcmp imm16) s = .next { s with seq.step := 1 }) ∧
    (s.seq.step = 1 → exec (.wtSetcmp imm16) s =
      .next { s with wt.cmp := imm16.toNat % 2 ^ s.cfg.nWt, seq.step := 2 }) ∧
    (s.seq.step = 2 → exec (.wtSetcmp imm16) s = .next (ended 0x00 [] s))

/-- 40_pulse_counter.md R100, R101, R107, R108: an edge counts exactly when the unit runs and is not held; the flag
`EVT[0]` is set, and its pin written if it was not set, exactly when the new count is the threshold. -/
def Obligations.EdgeStepCounts : Prop :=
  ∀ s : State,
    (s.pc.run = false ∨ s.sync.hold = true → edgeStep s = s) ∧
    (s.pc.run = true → s.sync.hold = false → (s.pc.cnt + 1) % 2 ^ s.cfg.nPc ≠ s.pc.cmp →
      edgeStep s = { s with pc.cnt := (s.pc.cnt + 1) % 2 ^ s.cfg.nPc }) ∧
    (s.pc.run = true → s.sync.hold = false → (s.pc.cnt + 1) % 2 ^ s.cfg.nPc = s.pc.cmp →
      edgeStep s = { s with
        pc.cnt := (s.pc.cnt + 1) % 2 ^ s.cfg.nPc
        evt := s.evt ||| 0b001
        out.pinTrace := if s.evt.getLsbD 0 = true then s.out.pinTrace
          else .evt (s.evt ||| 0b001) :: s.out.pinTrace })

/-- 40_pulse_counter.md R110: `n` qualifying edges advance the count by `n` modulo 2^N_PC. -/
def Obligations.PulseCountIsEdgeCount : Prop :=
  ∀ (s : State) (n : Nat), s.pc.run = true → s.sync.hold = false →
    (edgeStep^[n + 1] s).pc.cnt = (s.pc.cnt + (n + 1)) % 2 ^ s.cfg.nPc ∧
    (edgeStep^[n + 1] s).wt = s.wt ∧ (edgeStep^[n + 1] s).sync = s.sync

/-! ### Collection Window Timer and prescaler -/

/-- 41_window_timer.md R122, R124: the primitive steps of `WT_INIT` and `WT_STOP`; nothing else changes. -/
def Obligations.WindowTimerControls : Prop :=
  decodeCommand [0x10] = .ok .wtInit ∧ decodeCommand [0x12] = .ok .wtStop ∧
  ∀ s : State,
    (s.seq.step = 0 → exec .wtInit s = .next { s with wt.ctc := true, wt.cs := 0, seq.step := 1 }) ∧
    (s.seq.step = 1 → exec .wtInit s = .next (ended 0x00 [] s)) ∧
    (s.seq.step = 0 → exec .wtStop s = .next { s with wt.cs := 0, seq.step := 1 }) ∧
    (s.seq.step = 1 → exec .wtStop s = .next (ended 0x00 [] s))

/-- 41_window_timer.md R125, 20_memory.md R56: the primitive steps of `WT_READ`. That the byte order is taken at the first
sample and kept for the second is the model's choice (log 11). -/
def Obligations.WindowTimerRead : Prop :=
  decodeCommand [0x13] = .ok .wtRead ∧
  ∀ s : State,
    (s.cfg.nWt ≤ 8 → s.seq.step = 0 →
      exec .wtRead s = .next { s with seq.tmp := BitVec.ofNat 16 s.wt.cnt, seq.step := 1 }) ∧
    (s.cfg.nWt ≤ 8 → s.seq.step = 1 →
      exec .wtRead s = .next (ended 0x00 [s.seq.tmp.extractLsb' 8 8, s.seq.tmp.extractLsb' 0 8] s)) ∧
    (8 < s.cfg.nWt → s.seq.step = 0 → ∃ v : Word,
      exec .wtRead s = .next { s with seq.tmp := v, seq.loFirst := s.env.loFirst, seq.step := 1 } ∧
      ∀ k < 16, v.getLsbD k =
        if (if s.env.loFirst = true then k < 8 else 8 ≤ k ∧ k < s.cfg.nWt) then s.wt.cnt.testBit k
        else s.seq.tmp.getLsbD k) ∧
    (8 < s.cfg.nWt → s.seq.step = 1 → ∃ v : Word,
      exec .wtRead s = .next { s with seq.tmp := v, seq.step := 2 } ∧
      ∀ k < 16, v.getLsbD k =
        if (if s.seq.loFirst = true then 8 ≤ k ∧ k < s.cfg.nWt else k < 8) then s.wt.cnt.testBit k
        else s.seq.tmp.getLsbD k) ∧
    (8 < s.cfg.nWt → s.seq.step = 2 → ∃ v : Word,
      exec .wtRead s = .next (ended 0x00 [v.extractLsb' 8 8, v.extractLsb' 0 8] s) ∧
      ∀ k < 16, v.getLsbD k = (decide (k < s.cfg.nWt) && s.seq.tmp.getLsbD k))

/-- 41_window_timer.md R127, 42_sync_start.md R143: the primitive steps of `WT_SETRUNCS` and `WT_SETCS`, and `ILLEGAL`
for a clock-select value that `DIV` does not have (0 stops the timer for `WT_SETCS` only). -/
def Obligations.ClockSelectWrites : Prop :=
  (∀ v : Byte, decodeCommand [0x15, v] = .ok (.wtSetruncs v) ∧ decodeCommand [0x22, v] = .ok (.wtSetcs v)) ∧
  ∀ (s : State) (v : Byte),
    (s.seq.step = 0 → (∀ d, (v.toNat, d) ∉ s.cfg.div) → exec (.wtSetruncs v) s = .next (ended 0x02 [] s)) ∧
    (s.seq.step = 0 → (∃ d, (v.toNat, d) ∈ s.cfg.div) → exec (.wtSetruncs v) s = .next { s with seq.step := 1 }) ∧
    (s.seq.step = 1 → exec (.wtSetruncs v) s = .next { s with wt.runcs := v.extractLsb' 0 3, seq.step := 2 }) ∧
    (s.seq.step = 2 → exec (.wtSetruncs v) s = .next (ended 0x00 [] s)) ∧
    (s.seq.step = 0 → v ≠ 0 → (∀ d, (v.toNat, d) ∉ s.cfg.div) →
      exec (.wtSetcs v) s = .next (ended 0x02 [] s)) ∧
    (s.seq.step = 0 → (v = 0 ∨ ∃ d, (v.toNat, d) ∈ s.cfg.div) →
      exec (.wtSetcs v) s = .next { s with seq.step := 1 }) ∧
    (s.seq.step = 1 → exec (.wtSetcs v) s = .next { s with wt.cs := v.extractLsb' 0 3, seq.step := 2 }) ∧
    (s.seq.step = 2 → exec (.wtSetcs v) s = .next (ended 0x00 [] s))

/-- 41_window_timer.md R120: `ClkStep` advances the prescaler while `HOLD` = 0 and ticks the timer exactly when a tap is
selected whose divisor divides the new value. -/
def Obligations.ClkStepDividesBaseClock : Prop :=
  ∀ s : State,
    (s.sync.hold = true → clkStep s = s) ∧
    (s.sync.hold = false → s.wt.cs = 0 →
      clkStep s = { s with sync.psc := (s.sync.psc + 1) % 2 ^ s.cfg.pscBits }) ∧
    (∀ d, s.sync.hold = false → s.wt.cs ≠ 0 → s.cfg.div.lookup s.wt.cs.toNat = some d →
      ((s.sync.psc + 1) % 2 ^ s.cfg.pscBits) % d ≠ 0 →
      clkStep s = { s with sync.psc := (s.sync.psc + 1) % 2 ^ s.cfg.pscBits }) ∧
    (∀ d, s.sync.hold = false → s.wt.cs ≠ 0 → s.cfg.div.lookup s.wt.cs.toNat = some d →
      ((s.sync.psc + 1) % 2 ^ s.cfg.pscBits) % d = 0 →
      clkStep s = wtTick { s with sync.psc := (s.sync.psc + 1) % 2 ^ s.cfg.pscBits })

/-- 41_window_timer.md R121, R129: `WtTick`: the count goes to 0 on the tick after it equals the compare value when
clear-on-match is configured, else up by 1 modulo 2^N_WT; `EVT[1]` is set exactly when the new count is the compare
value. -/
def Obligations.WtTickClearsOnMatch : Prop :=
  ∀ s : State,
    (wtTick s).wt = { s.wt with
      cnt := if s.wt.ctc = true ∧ s.wt.cnt = s.wt.cmp then 0 else (s.wt.cnt + 1) % 2 ^ s.cfg.nWt } ∧
    (wtTick s).evt = (if (wtTick s).wt.cnt = s.wt.cmp then s.evt ||| 0b010 else s.evt) ∧
    wtTick s = { s with wt := (wtTick s).wt, evt := (wtTick s).evt, out.pinTrace := (wtTick s).out.pinTrace } ∧
    (wtTick s).out.pinTrace =
      (if (wtTick s).evt = s.evt then s.out.pinTrace else .evt (wtTick s).evt :: s.out.pinTrace)

/-- 41_window_timer.md R130: from a prescaler and a count of 0, after `n` base-clock periods the prescaler is `n`, and
the count is the number of ticks `n / d`, modulo the compare value + 1 or modulo 2^N_WT. -/
def Obligations.WindowCountAfterClocks : Prop :=
  ∀ (s : State) (d n : Nat), s.cfg.legal = true → s.sync.hold = false → s.sync.psc = 0 → s.wt.cnt = 0 →
    s.wt.cs ≠ 0 → s.cfg.div.lookup s.wt.cs.toNat = some d → s.wt.cmp < 2 ^ s.cfg.nWt →
    (clkStep^[n] s).sync.psc = n % 2 ^ s.cfg.pscBits ∧
    (clkStep^[n] s).wt.cnt =
      (if s.wt.ctc = true then n / d % (s.wt.cmp + 1) else n / d % 2 ^ s.cfg.nWt) ∧
    (clkStep^[n] s).pc = s.pc

/-! ### Synchronized start -/

/-- 42_sync_start.md R141, R142, R144, R145: the primitive steps of the four controls without operand; nothing else
changes. -/
def Obligations.SynchronizationControls : Prop :=
  decodeCommand [0x20] = .ok .wtClr ∧ decodeCommand [0x21] = .ok .syncHold ∧
  decodeCommand [0x23] = .ok .pscReset ∧ decodeCommand [0x24] = .ok .syncRelease ∧
  ∀ s : State,
    (s.seq.step = 0 → exec .wtClr s = .next { s with wt.cnt := 0, seq.step := 1 }) ∧
    (s.seq.step = 1 → exec .wtClr s = .next (ended 0x00 [] s)) ∧
    (s.seq.step = 0 → exec .syncHold s = .next { s with sync.hold := true, seq.step := 1 }) ∧
    (s.seq.step = 1 → exec .syncHold s = .next (ended 0x00 [] s)) ∧
    (s.seq.step = 0 → exec .pscReset s = .next { s with sync.psc := 0, seq.step := 1 }) ∧
    (s.seq.step = 1 → exec .pscReset s = .next (ended 0x00 [] s)) ∧
    (s.seq.step = 0 → exec .syncRelease s = .next { s with sync.hold := false, seq.step := 1 }) ∧
    (s.seq.step = 1 → exec .syncRelease s = .next (ended 0x00 [] s))

/-- 42_sync_start.md R146: the seven primitive steps of `WT_START`, in their order; nothing else changes. -/
def Obligations.SynchronizedStartSteps : Prop :=
  decodeCommand [0x11] = .ok .wtStart ∧
  ∀ s : State,
    (s.seq.step = 0 → exec .wtStart s = .next { s with wt.cnt := 0, seq.step := 1 }) ∧
    (s.seq.step = 1 → exec .wtStart s = .next { s with sync.hold := true, seq.step := 2 }) ∧
    (s.seq.step = 2 → exec .wtStart s = .next { s with pc.cnt := 0, seq.step := 3 }) ∧
    (s.seq.step = 3 → exec .wtStart s = .next { s with wt.cs := s.wt.runcs, seq.step := 4 }) ∧
    (s.seq.step = 4 → exec .wtStart s = .next { s with sync.psc := 0, seq.step := 5 }) ∧
    (s.seq.step = 5 → exec .wtStart s = .next { s with sync.hold := false, seq.step := 6 }) ∧
    (s.seq.step = 6 → exec .wtStart s = .next (ended 0x00 [] s))

/-- 42_sync_start.md R147: if no window is open when `WT_START` begins, then for EVERY interleaving of the other agents'
moves with its six register steps, in the state after the sixth all three counts are 0, the hold is released and the
configured prescale is selected: both units begin at the same instant. -/
def Obligations.SynchronizedStartEpoch : Prop :=
  ∀ (s : State) (ms : List Move), s.seq.busy = true → s.fetched = .ok .wtStart → s.seq.step = 0 →
    s.wt.cs = 0 → .reset ∉ ms → ms.count .seq = 5 →
    ∃ t, runMoves (ms ++ [.seq]) s = .next t ∧ t.pc.cnt = 0 ∧ t.wt.cnt = 0 ∧ t.sync.psc = 0 ∧
      t.sync.hold = false ∧ t.wt.cs = s.wt.runcs ∧ t.wt.runcs = s.wt.runcs ∧ t.pc.run = s.pc.run ∧
      t.seq.step = 6

/-- 42_sync_start.md R149: the five primitive controls, as five commands in the document's order with no other move
between them, end with the count, prescaler, hold and clock select of `WT_START`, and leave the Pulse Counter alone. -/
def Obligations.StartByPartsLeavesPulseCount : Prop :=
  ∀ (s : State) (c : Byte), s.seq.busy = false → (∃ d, (c.toNat, d) ∈ s.cfg.div) →
    ∃ t, runMoves [.command [0x20], .seq, .seq, .command [0x21], .seq, .seq, .command [0x22, c], .seq, .seq, .seq,
        .command [0x23], .seq, .seq, .command [0x24], .seq, .seq] s = .next t ∧
      t.wt = { s.wt with cnt := 0, cs := c.extractLsb' 0 3 } ∧ t.sync = { hold := false, psc := 0 } ∧
      t.pc = s.pc ∧ t.evt = s.evt ∧
      t.out.responses = [0x00] :: [0x00] :: [0x00] :: [0x00] :: [0x00] :: s.out.responses

/-- 42_sync_start.md R146 corner case (b), 70_reset_and_hazards.md R264: a tick between step 1 and step 2 of `WT_START`
over an open window leaves `WT_CNT` = 1. -/
def Obligations.SecondWindowSkewedByTick : Prop :=
  ∀ s : State, s.seq.busy = true → s.fetched = .ok .wtStart → s.seq.step = 0 → s.sync.hold = false →
    tapTicks s ((s.sync.psc + 1) % 2 ^ s.cfg.pscBits) = true → 1 ≤ s.cfg.nWt →
    (s.wt.ctc = true → s.wt.cmp ≠ 0) →
    ∃ t, runMoves [.seq, .clk, .seq, .seq, .seq, .seq, .seq] s = .next t ∧ t.wt.cnt = 1 ∧ t.sync.hold = false ∧
      t.seq.step = 6

/-! ### Reads of running and stopped counters -/

/-- 20_memory.md R56, 40_pulse_counter.md R105, 41_window_timer.md R125: with the unit stopped or held throughout,
`PC_READ` and `WT_READ` answer exactly the count, whatever the other agents do in between and whichever byte order is
chosen. -/
def Obligations.StoppedCounterReadsExactly : Prop :=
  ∀ (s : State) (ms : List Move), s.seq.busy = true → s.seq.step = 0 → .reset ∉ ms →
    (s.fetched = .ok .pcRead → s.cfg.nPc ≤ 16 → s.pc.cnt < 2 ^ s.cfg.nPc →
      (s.pc.run = false ∨ s.sync.hold = true) → ms.count .seq + 1 = (if s.cfg.nPc ≤ 8 then 2 else 3) →
      ∃ t, runMoves (ms ++ [.seq]) s = .next t ∧ t.pc = s.pc ∧ t.seq.busy = false ∧
        t.out.responses =
          [0x00, BitVec.ofNat 8 (s.pc.cnt / 256), BitVec.ofNat 8 (s.pc.cnt % 256)] :: s.out.responses) ∧
    (s.fetched = .ok .wtRead → s.cfg.nWt ≤ 16 → s.wt.cnt < 2 ^ s.cfg.nWt →
      (s.wt.cs = 0 ∨ s.sync.hold = true) → ms.count .seq + 1 = (if s.cfg.nWt ≤ 8 then 2 else 3) →
      ∃ t, runMoves (ms ++ [.seq]) s = .next t ∧ t.wt = s.wt ∧ t.seq.busy = false ∧
        t.out.responses =
          [0x00, BitVec.ofNat 8 (s.wt.cnt / 256), BitVec.ofNat 8 (s.wt.cnt % 256)] :: s.out.responses)

/-- 20_memory.md R56, 40_pulse_counter.md R105: one qualifying edge between the two samples of a counter of more than 8
bits: the answer joins the byte sampled before the edge and the byte sampled after it, in the order the environment
chose at the first sample (the instant of the choice is the model's, log 11). -/
def Obligations.TornPulseCounterRead : Prop :=
  ∀ (s : State) (c' : Nat), s.seq.busy = true → s.fetched = .ok .pcRead → s.seq.step = 0 →
    8 < s.cfg.nPc → s.cfg.nPc ≤ 16 → s.pc.cnt < 2 ^ s.cfg.nPc → s.pc.run = true → s.sync.hold = false →
    c' = (s.pc.cnt + 1) % 2 ^ s.cfg.nPc →
    ∃ t, runMoves [.seq, .edge, .seq, .seq] s = .next t ∧ t.pc.cnt = c' ∧
      t.out.responses =
        (if s.env.loFirst = true then [0x00, BitVec.ofNat 8 (c' / 256), BitVec.ofNat 8 (s.pc.cnt % 256)]
         else [0x00, BitVec.ofNat 8 (s.pc.cnt / 256), BitVec.ofNat 8 (c' % 256)]) :: s.out.responses

/-! ### SPI Link and wire words -/

/-- 43_spi_link.md R161, R162, R163, R167: the primitive steps of `SPI_WRITE8` and `SPI_WRITE16`. -/
def Obligations.SpiWriteSteps : Prop :=
  (∀ b : Byte, decodeCommand [0x30, b] = .ok (.spiWrite8 b)) ∧
  (∀ hi lo : Byte, decodeCommand [0x31, hi, lo] = .ok (.spiWrite16 (hi ++ lo))) ∧
  (∀ (s : State) (b : Byte),
    (s.seq.step = 0 → exec (.spiWrite8 b) s = .next (csWritten s.cfg.csActiveHigh s)) ∧
    (s.seq.step = 1 → exec (.spiWrite8 b) s = .next (byteStarted b s)) ∧
    (s.seq.step = 2 → exec (.spiWrite8 b) s = .next (waited s)) ∧
    (s.seq.step = 3 → exec (.spiWrite8 b) s = .next (csWritten (!s.cfg.csActiveHigh) s)) ∧
    (s.seq.step = 4 → exec (.spiWrite8 b) s = .next (ended 0x00 [] s))) ∧
  (∀ (s : State) (w : Word),
    (s.seq.step < 6 → exec (.spiWrite16 w) s =
      .next (wordFrameStep (w.extractLsb' 8 8) (w.extractLsb' 0 8) s.seq.step s)) ∧
    (s.seq.step = 6 → exec (.spiWrite16 w) s = .next (ended 0x00 [] s)))

/-- The model's own (log 6), on the layout of 30_encoding.md R78 and the frame of 43_spi_link.md R163: a wire word run by
itself is one frame of its two bytes, the high byte first, and ends without a response. -/
def Obligations.WireWordSteps : Prop :=
  ∀ (s : State) (a : BitVec 4) (d : BitVec 10) (i : Instr) (c : BitVec 2),
    ((i = .wireWrite a d ∧ c = s.cfg.cmdWrite) ∨ (i = .wireIncr a d ∧ c = s.cfg.cmdIncr) ∨
      (i = .wireDecr a d ∧ c = s.cfg.cmdDecr) ∨ (i = .wireRead a d ∧ c = s.cfg.cmdRead)) →
    (s.seq.step < 6 → exec i s =
      .next (wordFrameStep (a ++ c ++ d.extractLsb' 8 2) (d.extractLsb' 0 8) s.seq.step s)) ∧
    (s.seq.step = 6 → exec i s = .next { s with seq.busy := false, seq.step := 7 })

/-- 43_spi_link.md R164, R165, 20_memory.md R54: one bit step: the bit of the configured order, the three pin writes of
the configured phase, transfer-complete on the eighth. The model's own: a move of SPIENG while no byte is in flight or
`spi_ready` is false changes nothing (log 12), and so is the bit of an `SPI_BITCNT` of 8 or more (log 25). -/
def Obligations.EngineBitStep : Prop :=
  ∀ s : State,
    (s.spi.busy = false ∨ s.env.spiReady = false → engBitStep s = s) ∧
    (∀ b : Bool, s.spi.busy = true → s.env.spiReady = true →
      b = s.spi.sr.getLsbD (if s.cfg.lsbFirst = true then s.spi.bitcnt else 7 - s.spi.bitcnt) →
      engBitStep s = { s with
        spi.mosi := b, spi.sck := s.cfg.cpol, spi.bitcnt := s.spi.bitcnt + 1
        spi.busy := decide (s.spi.bitcnt + 1 ≠ 8)
        out.pinTrace :=
          (if s.cfg.cpha = true then [.sck s.cfg.cpol, .mosi b, .sck (!s.cfg.cpol)]
           else [.sck s.cfg.cpol, .sck (!s.cfg.cpol), .mosi b]) ++ s.out.pinTrace })

/-- 43_spi_link.md R161, R162, R163, R172, 20_memory.md R53, R54: for EVERY interleaving, when a `SPI_WRITE8` or
`SPI_WRITE16` accepted by an idle block has ended, the receiver has one frame more, of exactly the bits of the byte or
word in the configured order, chip-select was written exactly twice, and one response was delivered. -/
def Obligations.ReceiverSeesOneFrame : Prop :=
  ∀ (s t : State) (bytes : List Byte) (bits : List Bool) (ms : List Move),
    s.Inv → s.receiverAgrees = true → s.seq.busy = false →
    .reset ∉ ms → (∀ m ∈ ms, ∀ c, m ≠ .command c) →
    ((∃ b : Byte, bytes = [0x30, b] ∧ bits = byteBits s.cfg b) ∨
     (∃ w : Word, bytes = [0x31, w.extractLsb' 8 8, w.extractLsb' 0 8] ∧ bits = wordBits s.cfg w)) →
    runMoves (.command bytes :: ms) s = .next t → t.seq.busy = false →
    (received t.cfg t.out.pinTrace).frames = bits :: (received s.cfg s.out.pinTrace).frames ∧
    t.out.pinTrace.countP isCsWrite = s.out.pinTrace.countP isCsWrite + 2 ∧
    t.out.responses = [0x00] :: s.out.responses

/-- 43_spi_link.md R168, 60_exceptions.md R229: with a byte in flight and `spi_ready` false from now on, whatever the
other agents do and short of RESET, the operation stays in progress for ever: no response, chip-select as it is,
`DP_SHADOW` unchanged, no later command accepted. -/
def Obligations.HangNeverEnds : Prop :=
  ∀ (s : State) (ms : List Move), s.Inv → s.spi.busy = true → s.env.spiReady = false →
    .reset ∉ ms → .spiReady true ∉ ms →
    ∃ t, runMoves ms s = .next t ∧ t.seq = s.seq ∧ t.seq.busy = true ∧ t.spi = s.spi ∧
      t.spi.cs = csActive s.cfg ∧ t.dp = s.dp ∧ t.out.responses = s.out.responses

/-! ### Digital Potentiometer Driver -/

/-- 44_digipot.md R186, R187, R190, R192: the primitive steps of `DP_INC` and `DP_DEC`: the clamped value to `SEQ_TMP`,
the frame of the write-data word, the shadow, the response with the new shadow. That the first step writes nothing and
the step that stores `SEQ_TMP` forms the value again from `DP_SHADOW` is the model's reading (log 16). -/
def Obligations.DriverIncrementDecrement : Prop :=
  decodeCommand [0x40] = .ok .dpInc ∧ decodeCommand [0x41] = .ok .dpDec ∧
  ∀ (s : State) (i : Instr) (v : Nat) (w : Word),
    ((i = .dpInc ∧ v = min (s.dp.toNat + 1) (s.cfg.steps - 1)) ∨
      (i = .dpDec ∧ (v : Int) = max ((s.dp.toNat : Int) - 1) 0)) →
    w = s.cfg.wiperAddr ++ s.cfg.cmdWrite ++ s.seq.tmp.extractLsb' 0 10 →
    (s.seq.step = 0 → exec i s = .next { s with seq.step := 1 }) ∧
    (s.seq.step = 1 → exec i s = .next { s with seq.tmp := BitVec.ofNat 16 v, seq.step := 2 }) ∧
    (2 ≤ s.seq.step → s.seq.step < 8 → exec i s =
      .next (wordFrameStep (w.extractLsb' 8 8) (w.extractLsb' 0 8) (s.seq.step - 2) s)) ∧
    (s.seq.step = 8 → s.seq.tmp.toNat < 2 ^ s.cfg.shadowBits →
      exec i s = .next { s with dp := s.seq.tmp, seq.step := 9 }) ∧
    (s.seq.step = 9 → exec i s = .next (ended 0x00 [s.dp.extractLsb' 8 8, s.dp.extractLsb' 0 8] s))

/-- 44_digipot.md R188, R190, 60_exceptions.md R227: the primitive steps of `DP_SET_TEXT`: `FAIL` on a bad length, a
byte that is no digit, a value above `STEPS` - 1, in that order and with no other change; else the write. -/
def Obligations.DriverSetText : Prop :=
  (∀ text : List Byte, text.length ≤ 255 →
    decodeCommand (0x42 :: BitVec.ofNat 8 text.length :: text) = .ok (.dpSetText text)) ∧
  ∀ (s : State) (text : List Byte) (w : Word),
    w = s.cfg.wiperAddr ++ s.cfg.cmdWrite ++ s.seq.tmp.extractLsb' 0 10 →
    (s.seq.step = 0 → (text.length = 0 ∨ 3 < text.length) →
      exec (.dpSetText text) s = .next (ended 0x01 [] s)) ∧
    (s.seq.step = 0 → 1 ≤ text.length → text.length ≤ 3 →
      exec (.dpSetText text) s = .next { s with seq.step := 1 }) ∧
    (s.seq.step = 1 → (∃ b ∈ text, b.toNat < 0x30 ∨ 0x39 < b.toNat) →
      exec (.dpSetText text) s = .next (ended 0x01 [] s)) ∧
    (s.seq.step = 1 → (∀ b ∈ text, 0x30 ≤ b.toNat ∧ b.toNat ≤ 0x39) →
      exec (.dpSetText text) s = .next { s with seq.step := 2 }) ∧
    (s.seq.step = 2 → s.cfg.steps - 1 < parseDecimal text →
      exec (.dpSetText text) s = .next (ended 0x01 [] s)) ∧
    (s.seq.step = 2 → parseDecimal text ≤ s.cfg.steps - 1 →
      exec (.dpSetText text) s = .next { s with seq.step := 3 }) ∧
    (s.seq.step = 3 → exec (.dpSetText text) s =
      .next { s with seq.tmp := BitVec.ofNat 16 (parseDecimal text), seq.step := 4 }) ∧
    (4 ≤ s.seq.step → s.seq.step < 10 → exec (.dpSetText text) s =
      .next (wordFrameStep (w.extractLsb' 8 8) (w.extractLsb' 0 8) (s.seq.step - 4) s)) ∧
    (s.seq.step = 10 → s.seq.tmp.toNat < 2 ^ s.cfg.shadowBits →
      exec (.dpSetText text) s = .next { s with dp := s.seq.tmp, seq.step := 11 }) ∧
    (s.seq.step = 11 → exec (.dpSetText text) s = .next (ended 0x00 [] s))

/-- 44_digipot.md R190, R192, R194: the primitive steps of `DP_SET_NUM`: no range check, the payload masked on the wire
only. Where the value does not fit `SHADOW_BITS` bits the stored value is the model's free value (log 5). -/
def Obligations.DriverSetNum : Prop :=
  (∀ hi lo : Byte, decodeCommand [0x43, hi, lo] = .ok (.dpSetNum (hi ++ lo))) ∧
  ∀ (s : State) (v w : Word),
    w = s.cfg.wiperAddr ++ s.cfg.cmdWrite ++ s.seq.tmp.extractLsb' 0 10 →
    (s.seq.step = 0 → exec (.dpSetNum v) s = .next { s with seq.tmp := v, seq.step := 1 }) ∧
    (1 ≤ s.seq.step → s.seq.step < 7 → exec (.dpSetNum v) s =
      .next (wordFrameStep (w.extractLsb' 8 8) (w.extractLsb' 0 8) (s.seq.step - 1) s)) ∧
    (s.seq.step = 7 → s.seq.tmp.toNat < 2 ^ s.cfg.shadowBits →
      exec (.dpSetNum v) s = .next { s with dp := s.seq.tmp, seq.step := 8 }) ∧
    (s.seq.step = 7 → 2 ^ s.cfg.shadowBits ≤ s.seq.tmp.toNat → ∃ x : Word, x.toNat < 2 ^ s.cfg.shadowBits ∧
      exec (.dpSetNum v) s = .next { s with dp := x, freeIdx := s.freeIdx + 1, seq.step := 8 }) ∧
    (s.seq.step = 8 → exec (.dpSetNum v) s = .next (ended 0x00 [] s))

/-- 44_digipot.md R191, 60_exceptions.md R233, 20_memory.md R58: `DP_GET` and `EVT_READ` answer in one step and change
nothing but the sequencer. -/
def Obligations.QueriesChangeNothing : Prop :=
  decodeCommand [0x44] = .ok .dpGet ∧ decodeCommand [0x60] = .ok .evtRead ∧
  ∀ s : State, s.seq.step = 0 →
    exec .dpGet s = .next (ended 0x00 [s.dp.extractLsb' 8 8, s.dp.extractLsb' 0 8] s) ∧
    exec .evtRead s = .next (ended 0x00 [0#5 ++ s.evt] s)

/-- 44_digipot.md R186, R187, R188, R190, R192, R193, R194, 43_spi_link.md R172: a mutating driver operation accepted by
an idle block, for EVERY interleaving with no RESET and no further command. Until its frame is complete the shadow is as
it was. When it has ended, the receiver has one frame more, the write-data word of the value's low 10 bits, chip-select was written exactly
twice, the shadow is the whole value (a free value where that does not fit `SHADOW_BITS` bits, log 5), and one response
was delivered. Everything else is as if neither SEQ nor SPIENG had moved. With `spi_ready` the moves of those two alone
can end it. -/
def Obligations.DriverWritesWireAndShadow : Prop :=
  ∀ (s : State) (i : Instr) (v : Word), s.Inv → s.receiverAgrees = true → s.seq.busy = false →
    ((i = .dpInc ∧ v.toNat = min (s.dp.toNat + 1) (s.cfg.steps - 1)) ∨ (i = .dpDec ∧ v.toNat = s.dp.toNat - 1) ∨
      (i = .dpSetNum v) ∨
      (∃ text : List Byte, i = .dpSetText text ∧ 1 ≤ text.length ∧ text.length ≤ 3 ∧
        (∀ b ∈ text, 0x30 ≤ b.toNat ∧ b.toNat ≤ 0x39) ∧ v.toNat = parseDecimal text ∧ v.toNat < s.cfg.steps)) →
    (∀ (ms : List Move) (t : State), .reset ∉ ms → (∀ m ∈ ms, ∀ c, m ≠ .command c) →
      runMoves (.command (encode s.cfg i) :: ms) s = .next t →
      ((t.dp = s.dp ∧ t.freeIdx = s.freeIdx ∧ t.seq.busy = true) ∨
        (received t.cfg t.out.pinTrace).frames =
          wordBits s.cfg (s.cfg.wiperAddr ++ s.cfg.cmdWrite ++ v.extractLsb' 0 10)
            :: (received s.cfg s.out.pinTrace).frames) ∧
      (t.seq.busy = true → t.out.responses = s.out.responses) ∧
      (t.seq.busy = false →
        (v.toNat < 2 ^ s.cfg.shadowBits → t.dp = v ∧ t.freeIdx = s.freeIdx) ∧
        (2 ^ s.cfg.shadowBits ≤ v.toNat → t.dp.toNat < 2 ^ s.cfg.shadowBits ∧ t.freeIdx = s.freeIdx + 1) ∧
        t.out.pinTrace.countP isCsWrite = s.out.pinTrace.countP isCsWrite + 2 ∧
        t.out.responses =
          (if i = .dpInc ∨ i = .dpDec then [0x00, v.extractLsb' 8 8, v.extractLsb' 0 8] else [0x00])
            :: s.out.responses) ∧
      t.cfg = s.cfg ∧
      ∃ u, runMoves (ms.filter fun m => decide (m ≠ .seq ∧ m ≠ .eng)) s = .next u ∧
        t.pc = u.pc ∧ t.wt = u.wt ∧ t.sync = u.sync ∧ t.evt = u.evt ∧ t.dt = u.dt ∧ t.env = u.env) ∧
    (s.env.spiReady = true → ∃ (ms : List Move) (t : State), (∀ m ∈ ms, m = .seq ∨ m = .eng) ∧
      runMoves (.command (encode s.cfg i) :: ms) s = .next t ∧ t.seq.busy = false)

/-- 10_state.md R32, 44_digipot.md R193: as long as no numeric operand above `STEPS` - 1 is presented, every step keeps
the shadow, and the value on its way to the wire, in 0 to `STEPS` - 1. -/
def Obligations.ShadowStaysInRange : Prop :=
  ∀ s t : State, s.Inv → s.wiperInRange = true → s.nextMove.keepsWiperRange s.cfg = true → step s = .next t →
    t.wiperInRange = true

/-! ### Display tick and events -/

/-- 45_display_tick.md R217, R218: the primitive steps of `DT_START` and `DT_STOP`; nothing else changes. -/
def Obligations.DisplayTickControls : Prop :=
  decodeCommand [0x50] = .ok .dtStart ∧ decodeCommand [0x51] = .ok .dtStop ∧
  ∀ s : State,
    (s.seq.step = 0 → exec .dtStart s = .next { s with dt.run := true, seq.step := 1 }) ∧
    (s.seq.step = 1 → exec .dtStart s = .next (ended 0x00 [] s)) ∧
    (s.seq.step = 0 → exec .dtStop s = .next { s with dt.run := false, seq.step := 1 }) ∧
    (s.seq.step = 1 → exec .dtStop s = .next (ended 0x00 [] s))

/-- 45_display_tick.md R216: `DtStep`: the phase always runs; `EVT[2]` is set exactly when it wraps while the timer is
on; nothing else changes. -/
def Obligations.DtStepFiresOnWrap : Prop :=
  ∀ s : State,
    (dtStep s).dt = { s.dt with cnt := (s.dt.cnt + 1) % s.cfg.dtPeriod } ∧
    (dtStep s).evt =
      (if (s.dt.cnt + 1) % s.cfg.dtPeriod = 0 ∧ s.dt.run = true then s.evt ||| 0b100 else s.evt) ∧
    dtStep s = { s with dt := (dtStep s).dt, evt := (dtStep s).evt, out.pinTrace := (dtStep s).out.pinTrace } ∧
    (dtStep s).out.pinTrace =
      (if (dtStep s).evt = s.evt then s.out.pinTrace else .evt (dtStep s).evt :: s.out.pinTrace)

/-- 45_display_tick.md R219: no operation but `DT_START` and `DT_STOP` reads or writes the Display Tick Timer: with
another timer state in its place every operation does the same. -/
def Obligations.DisplayTickIndependent : Prop :=
  ∀ (i : Instr) (s : State) (x : DisplayTick), i ≠ .dtStart → i ≠ .dtStop →
    exec i { s with dt := x } = onNext (fun t => { t with dt := x }) (exec i s) ∧
    (∀ t, exec i s = .next t → t.dt = s.dt)

/-- 60_exceptions.md R234: the primitive steps of `EVT_ACK`: `ILLEGAL` for a reserved mask bit; else exactly the
acknowledged flags are cleared and the pins follow. -/
def Obligations.EventAcknowledge : Prop :=
  (∀ v : Byte, decodeCommand [0x61, v] = .ok (.evtAck v)) ∧
  ∀ (s : State) (mask : Byte),
    (s.seq.step = 0 → 8 ≤ mask.toNat → exec (.evtAck mask) s = .next (ended 0x02 [] s)) ∧
    (s.seq.step = 0 → mask.toNat < 8 → exec (.evtAck mask) s = .next { s with seq.step := 1 }) ∧
    (s.seq.step = 1 → ∃ e : BitVec 3, (∀ k, e.getLsbD k = (s.evt.getLsbD k && !mask.getLsbD k)) ∧
      exec (.evtAck mask) s = .next { s with
        evt := e, seq.step := 2
        out.pinTrace := if e = s.evt then s.out.pinTrace else .evt e :: s.out.pinTrace }) ∧
    (s.seq.step = 2 → exec (.evtAck mask) s = .next (ended 0x00 [] s))

/-- 10_state.md R22, 60_exceptions.md R231, R232: a flag that is set stays set under every move but RESET and the
clearing step of an `EVT_ACK` whose mask has its bit; a flag that is clear is set only by its own source. -/
def Obligations.EventFlagsSetAndCleared : Prop :=
  ∀ (m : Move) (s t : State), takeMove m s = .next t →
    (∀ k, s.evt.getLsbD k = true → m ≠ .reset → t.evt.getLsbD k = true ∨
      (m = .seq ∧ s.seq.busy = true ∧ s.seq.step = 1 ∧
        ∃ mask, s.fetched = .ok (.evtAck mask) ∧ mask.getLsbD k = true)) ∧
    (t.evt.getLsbD 0 = true → s.evt.getLsbD 0 = false →
      m = .edge ∧ t.pc.cnt = t.pc.cmp ∧ s.pc.run = true ∧ s.sync.hold = false) ∧
    (t.evt.getLsbD 1 = true → s.evt.getLsbD 1 = false →
      m = .clk ∧ t.wt.cnt = t.wt.cmp ∧ s.wt.cs ≠ 0 ∧ s.sync.hold = false) ∧
    (t.evt.getLsbD 2 = true → s.evt.getLsbD 2 = false → m = .dt ∧ t.dt.cnt = 0 ∧ s.dt.run = true)

/-- 60_exceptions.md R235: the event pins change in the step that changes the flags, and only then. -/
def Obligations.EventPinsFollowFlags : Prop :=
  ∀ (m : Move) (s t : State), takeMove m s = .next t → m ≠ .reset →
    (t.evt ≠ s.evt → t.out.pinTrace = .evt t.evt :: s.out.pinTrace) ∧
    (t.evt = s.evt → ∃ ws : List PinWrite, t.out.pinTrace = ws ++ s.out.pinTrace ∧ ∀ w ∈ ws, ∀ e, w ≠ .evt e)

/-! ### The whole machine -/

/-- 42_sync_start.md R150, 20_memory.md R63: while `HOLD` = 1 no move but RESET and the sequencer's changes the Pulse
Counter, the Window Timer or the prescaler. -/
def Obligations.HoldFreezesBothUnits : Prop :=
  ∀ (m : Move) (s t : State), takeMove m s = .next t → s.sync.hold = true → m ≠ .reset → m ≠ .seq →
    t.pc = s.pc ∧ t.wt = s.wt ∧ t.sync = s.sync

/-- 10_state.md R11, R14, R20, R34: who writes the counters: hardware steps count, operations write 0 only. -/
def Obligations.CounterWriters : Prop :=
  ∀ (m : Move) (s t : State), takeMove m s = .next t → m ≠ .reset →
    (t.pc.cnt ≠ s.pc.cnt → m = .edge ∨ (m = .seq ∧ t.pc.cnt = 0 ∧
      (s.fetched = .ok .pcEnable ∨ s.fetched = .ok .pcClear ∨ s.fetched = .ok .wtStart))) ∧
    (t.wt.cnt ≠ s.wt.cnt → m = .clk ∨ (m = .seq ∧ t.wt.cnt = 0 ∧
      (s.fetched = .ok .wtClr ∨ s.fetched = .ok .wtStart))) ∧
    (t.sync.psc ≠ s.sync.psc → m = .clk ∨ (m = .seq ∧ t.sync.psc = 0 ∧
      (s.fetched = .ok .pscReset ∨ s.fetched = .ok .wtStart))) ∧
    (t.dt.cnt ≠ s.dt.cnt → m = .dt)

/-- 10_state.md R12, R13, R15 to R19, R23, R27, R34: who writes the control registers and the shadow: only the
operations the rules name, never a hardware step. -/
def Obligations.ControlRegisterWriters : Prop :=
  ∀ (m : Move) (s t : State), takeMove m s = .next t → m ≠ .reset →
    (t.pc.cmp ≠ s.pc.cmp → m = .seq ∧ ∃ v, s.fetched = .ok (.pcSetcmp v)) ∧
    (t.pc.run ≠ s.pc.run → m = .seq ∧ (s.fetched = .ok .pcEnable ∨ s.fetched = .ok .pcDisable)) ∧
    (t.wt.cmp ≠ s.wt.cmp → m = .seq ∧ ∃ v, s.fetched = .ok (.wtSetcmp v)) ∧
    (t.wt.cs ≠ s.wt.cs → m = .seq ∧ (s.fetched = .ok .wtInit ∨ s.fetched = .ok .wtStop ∨
      s.fetched = .ok .wtStart ∨ ∃ v, s.fetched = .ok (.wtSetcs v))) ∧
    (t.wt.ctc ≠ s.wt.ctc → m = .seq ∧ s.fetched = .ok .wtInit) ∧
    (t.wt.runcs ≠ s.wt.runcs → m = .seq ∧ ∃ v, s.fetched = .ok (.wtSetruncs v)) ∧
    (t.sync.hold ≠ s.sync.hold → m = .seq ∧
      (s.fetched = .ok .syncHold ∨ s.fetched = .ok .syncRelease ∨ s.fetched = .ok .wtStart)) ∧
    (t.dp ≠ s.dp → m = .seq ∧ (s.fetched = .ok .dpInc ∨ s.fetched = .ok .dpDec ∨
      (∃ v, s.fetched = .ok (.dpSetNum v)) ∨ ∃ text, s.fetched = .ok (.dpSetText text))) ∧
    (t.dt.run ≠ s.dt.run → m = .seq ∧ (s.fetched = .ok .dtStart ∨ s.fetched = .ok .dtStop))

/-- 10_state.md R33, 70_reset_and_hazards.md R260, R261, R262: RESET, from any state and during any operation, gives
every element its reset value (most of them values that R33 marks as the spec's own decision, log 20), delivers no
response, and leaves the parameters and the environment as they are. -/
def Obligations.ResetRestores : Prop :=
  ∀ s : State, ∃ t, takeMove .reset s = .next t ∧
    t.pc = { cnt := 0, cmp := s.cfg.pcCmpReset, run := false } ∧
    t.wt = { cnt := 0, cmp := s.cfg.wtCmpReset, cs := 0, ctc := false, runcs := s.cfg.wtRuncsReset } ∧
    t.sync = { hold := false, psc := 0 } ∧ t.evt = 0 ∧ t.dp = BitVec.ofNat 16 s.cfg.wiperDefault ∧
    t.spi = { sr := 0, bitcnt := 0, busy := false, cs := !s.cfg.csActiveHigh, sck := s.cfg.cpol, mosi := false } ∧
    t.dt = { run := false, cnt := 0 } ∧ t.seq.busy = false ∧
    t.out.responses = s.out.responses ∧ t.out.pinTrace = .reset :: s.out.pinTrace ∧
    t.cfg = s.cfg ∧ t.env = s.env

/-- 10_state.md R33: under legal parameters the state after reset meets the invariant and the wiper invariant, and the
receiver agrees with the pins. -/
def Obligations.ResetMeetsInvariant : Prop :=
  State.reset.Inv ∧ ∀ p : Params, p.legal = true →
    (State.resetWith p).Inv ∧ (State.resetWith p).wiperInRange = true ∧ (State.resetWith p).receiverAgrees = true

/-- 10_state.md R11 to R28, 43_spi_link.md R163, R169: every step, whichever agent moves, keeps the invariant: registers
within their widths and legal values, `SEQ_STEP` an index of the operation, the link where the operation has brought
it. -/
def Obligations.EveryStepKeepsInvariant : Prop :=
  ∀ s t : State, s.Inv → step s = .next t → t.Inv

/-- 43_spi_link.md R165, R169: every step keeps the receiver's view in agreement with the pins. -/
def Obligations.EveryStepKeepsReceiver : Prop :=
  ∀ s t : State, s.receiverAgrees = true → step s = .next t → t.receiverAgrees = true

/-- 60_exceptions.md R225, R237: in a state that meets the invariant the machine never stops: every step answers a next
state. -/
def Obligations.MachineNeverStops : Prop :=
  ∀ s : State, s.Inv → ∃ t, step s = .next t

/-- 60_exceptions.md R225, 43_spi_link.md R168 (with its named premise that `spi_ready` holds): from every state that
meets the invariant, with no environment move to come, the operation in progress ends within 120 steps. It is about the
model's own order of moves once the list of inputs is used up (log 2). -/
def Obligations.EveryOperationEnds : Prop :=
  ∀ s : State, s.Inv → s.seq.busy = true → s.env.inputs = [] → s.env.spiReady = true →
    ∃ n t, n ≤ 120 ∧ Host.Core.run Sys2Proof.core n s = .next t ∧ t.seq.busy = false

/-- 70_reset_and_hazards.md R278, 43_spi_link.md R169: in a state that meets the invariant and in which no operation is
in progress no byte is in flight, chip-select is inactive and the clock is at its idle level. -/
def Obligations.IdleBlockIsQuiet : Prop :=
  ∀ s : State, s.Inv → s.seq.busy = false →
    s.spi.busy = false ∧ s.spi.cs = !s.cfg.csActiveHigh ∧ s.spi.sck = s.cfg.cpol

/-- 43_spi_link.md R171, 20_memory.md R62: the whole SPI Link, that is the primitive steps of its operations and the
engine's move, changes nothing but the link, the observations and (for the primitive steps) the sequencer, and reads
nothing of the other units: with other contents in them it does the same. That a wire word is such an operation is the
model's choice (log 6). -/
def Obligations.LinkTouchesNothingElse : Prop :=
  (∀ (i : Instr) (s : State), ((∃ b, i = .spiWrite8 b) ∨ (∃ w, i = .spiWrite16 w) ∨ i.space = .wire) →
    (∀ t, exec i s = .next t → t = { s with spi := t.spi, seq := t.seq, out := t.out }) ∧
    ∀ x : State, exec i (withUnitsOf x s) = onNext (withUnitsOf x) (exec i s)) ∧
  ∀ s : State,
    (∀ t, takeMove .eng s = .next t → t = { s with spi := t.spi, out := t.out }) ∧
    ∀ x : State, takeMove .eng (withUnitsOf x s) = onNext (withUnitsOf x) (takeMove .eng s)
end

