-- ==== Sys2Proof/Laws/State.lean ====
section
/-! SUPPORT. One lemma per field per update of the state, so that no later proof unfolds a record update. -/

namespace Sys2Proof.Machine

/-! `State.advance` -/

@[simp] theorem State.advance_cfg (s : State) : (s.advance).cfg = s.cfg := rfl
@[simp] theorem State.advance_pc (s : State) : (s.advance).pc = s.pc := rfl
@[simp] theorem State.advance_wt (s : State) : (s.advance).wt = s.wt := rfl
@[simp] theorem State.advance_sync (s : State) : (s.advance).sync = s.sync := rfl
@[simp] theorem State.advance_evt (s : State) : (s.advance).evt = s.evt := rfl
@[simp] theorem State.advance_dp (s : State) : (s.advance).dp = s.dp := rfl
@[simp] theorem State.advance_spi (s : State) : (s.advance).spi = s.spi := rfl
@[simp] theorem State.advance_dt (s : State) : (s.advance).dt = s.dt := rfl
@[simp] theorem State.advance_seq (s : State) : (s.advance).seq = { s.seq with step := s.seq.step + 1 } := rfl
@[simp] theorem State.advance_out (s : State) : (s.advance).out = s.out := rfl
@[simp] theorem State.advance_env (s : State) : (s.advance).env = s.env := rfl
@[simp] theorem State.advance_freeIdx (s : State) : (s.advance).freeIdx = s.freeIdx := rfl

/-! `State.idle` -/

@[simp] theorem State.idle_cfg (s : State) : (s.idle).cfg = s.cfg := rfl
@[simp] theorem State.idle_pc (s : State) : (s.idle).pc = s.pc := rfl
@[simp] theorem State.idle_wt (s : State) : (s.idle).wt = s.wt := rfl
@[simp] theorem State.idle_sync (s : State) : (s.idle).sync = s.sync := rfl
@[simp] theorem State.idle_evt (s : State) : (s.idle).evt = s.evt := rfl
@[simp] theorem State.idle_dp (s : State) : (s.idle).dp = s.dp := rfl
@[simp] theorem State.idle_spi (s : State) : (s.idle).spi = s.spi := rfl
@[simp] theorem State.idle_dt (s : State) : (s.idle).dt = s.dt := rfl
@[simp] theorem State.idle_seq (s : State) : (s.idle).seq = { s.seq with busy := false } := rfl
@[simp] theorem State.idle_out (s : State) : (s.idle).out = s.out := rfl
@[simp] theorem State.idle_env (s : State) : (s.idle).env = s.env := rfl
@[simp] theorem State.idle_freeIdx (s : State) : (s.idle).freeIdx = s.freeIdx := rfl

/-! `State.deliver` -/

@[simp] theorem State.deliver_cfg (status : Byte) (value : List Byte) (s : State) : (s.deliver status value).cfg = s.cfg := rfl
@[simp] theorem State.deliver_pc (status : Byte) (value : List Byte) (s : State) : (s.deliver status value).pc = s.pc := rfl
@[simp] theorem State.deliver_wt (status : Byte) (value : List Byte) (s : State) : (s.deliver status value).wt = s.wt := rfl
@[simp] theorem State.deliver_sync (status : Byte) (value : List Byte) (s : State) : (s.deliver status value).sync = s.sync := rfl
@[simp] theorem State.deliver_evt (status : Byte) (value : List Byte) (s : State) : (s.deliver status value).evt = s.evt := rfl
@[simp] theorem State.deliver_dp (status : Byte) (value : List Byte) (s : State) : (s.deliver status value).dp = s.dp := rfl
@[simp] theorem State.deliver_spi (status : Byte) (value : List Byte) (s : State) : (s.deliver status value).spi = s.spi := rfl
@[simp] theorem State.deliver_dt (status : Byte) (value : List Byte) (s : State) : (s.deliver status value).dt = s.dt := rfl
@[simp] theorem State.deliver_seq (status : Byte) (value : List Byte) (s : State) : (s.deliver status value).seq = { s.seq with step := s.seq.step + 1, busy := false } := rfl
@[simp] theorem State.deliver_out (status : Byte) (value : List Byte) (s : State) : (s.deliver status value).out = { s.out with responses := (status :: value) :: s.out.responses } := rfl
@[simp] theorem State.deliver_env (status : Byte) (value : List Byte) (s : State) : (s.deliver status value).env = s.env := rfl
@[simp] theorem State.deliver_freeIdx (status : Byte) (value : List Byte) (s : State) : (s.deliver status value).freeIdx = s.freeIdx := rfl

/-! `State.driveCs` -/

@[simp] theorem State.driveCs_cfg (level : Bool) (s : State) : (s.driveCs level).cfg = s.cfg := rfl
@[simp] theorem State.driveCs_pc (level : Bool) (s : State) : (s.driveCs level).pc = s.pc := rfl
@[simp] theorem State.driveCs_wt (level : Bool) (s : State) : (s.driveCs level).wt = s.wt := rfl
@[simp] theorem State.driveCs_sync (level : Bool) (s : State) : (s.driveCs level).sync = s.sync := rfl
@[simp] theorem State.driveCs_evt (level : Bool) (s : State) : (s.driveCs level).evt = s.evt := rfl
@[simp] theorem State.driveCs_dp (level : Bool) (s : State) : (s.driveCs level).dp = s.dp := rfl
@[simp] theorem State.driveCs_spi (level : Bool) (s : State) : (s.driveCs level).spi = { s.spi with cs := level } := rfl
@[simp] theorem State.driveCs_dt (level : Bool) (s : State) : (s.driveCs level).dt = s.dt := rfl
@[simp] theorem State.driveCs_seq (level : Bool) (s : State) : (s.driveCs level).seq = s.seq := rfl
@[simp] theorem State.driveCs_out (level : Bool) (s : State) : (s.driveCs level).out = { s.out with pinTrace := .cs level :: s.out.pinTrace } := rfl
@[simp] theorem State.driveCs_env (level : Bool) (s : State) : (s.driveCs level).env = s.env := rfl
@[simp] theorem State.driveCs_freeIdx (level : Bool) (s : State) : (s.driveCs level).freeIdx = s.freeIdx := rfl

/-! `State.driveSck` -/

@[simp] theorem State.driveSck_cfg (level : Bool) (s : State) : (s.driveSck level).cfg = s.cfg := rfl
@[simp] theorem State.driveSck_pc (level : Bool) (s : State) : (s.driveSck level).pc = s.pc := rfl
@[simp] theorem State.driveSck_wt (level : Bool) (s : State) : (s.driveSck level).wt = s.wt := rfl
@[simp] theorem State.driveSck_sync (level : Bool) (s : State) : (s.driveSck level).sync = s.sync := rfl
@[simp] theorem State.driveSck_evt (level : Bool) (s : State) : (s.driveSck level).evt = s.evt := rfl
@[simp] theorem State.driveSck_dp (level : Bool) (s : State) : (s.driveSck level).dp = s.dp := rfl
@[simp] theorem State.driveSck_spi (level : Bool) (s : State) : (s.driveSck level).spi = { s.spi with sck := level } := rfl
@[simp] theorem State.driveSck_dt (level : Bool) (s : State) : (s.driveSck level).dt = s.dt := rfl
@[simp] theorem State.driveSck_seq (level : Bool) (s : State) : (s.driveSck level).seq = s.seq := rfl
@[simp] theorem State.driveSck_out (level : Bool) (s : State) : (s.driveSck level).out = { s.out with pinTrace := .sck level :: s.out.pinTrace } := rfl
@[simp] theorem State.driveSck_env (level : Bool) (s : State) : (s.driveSck level).env = s.env := rfl
@[simp] theorem State.driveSck_freeIdx (level : Bool) (s : State) : (s.driveSck level).freeIdx = s.freeIdx := rfl

/-! `State.driveMosi` -/

@[simp] theorem State.driveMosi_cfg (level : Bool) (s : State) : (s.driveMosi level).cfg = s.cfg := rfl
@[simp] theorem State.driveMosi_pc (level : Bool) (s : State) : (s.driveMosi level).pc = s.pc := rfl
@[simp] theorem State.driveMosi_wt (level : Bool) (s : State) : (s.driveMosi level).wt = s.wt := rfl
@[simp] theorem State.driveMosi_sync (level : Bool) (s : State) : (s.driveMosi level).sync = s.sync := rfl
@[simp] theorem State.driveMosi_evt (level : Bool) (s : State) : (s.driveMosi level).evt = s.evt := rfl
@[simp] theorem State.driveMosi_dp (level : Bool) (s : State) : (s.driveMosi level).dp = s.dp := rfl
@[simp] theorem State.driveMosi_spi (level : Bool) (s : State) : (s.driveMosi level).spi = { s.spi with mosi := level } := rfl
@[simp] theorem State.driveMosi_dt (level : Bool) (s : State) : (s.driveMosi level).dt = s.dt := rfl
@[simp] theorem State.driveMosi_seq (level : Bool) (s : State) : (s.driveMosi level).seq = s.seq := rfl
@[simp] theorem State.driveMosi_out (level : Bool) (s : State) : (s.driveMosi level).out = { s.out with pinTrace := .mosi level :: s.out.pinTrace } := rfl
@[simp] theorem State.driveMosi_env (level : Bool) (s : State) : (s.driveMosi level).env = s.env := rfl
@[simp] theorem State.driveMosi_freeIdx (level : Bool) (s : State) : (s.driveMosi level).freeIdx = s.freeIdx := rfl

/-! `State.loadShift` -/

@[simp] theorem State.loadShift_cfg (b : Byte) (s : State) : (s.loadShift b).cfg = s.cfg := rfl
@[simp] theorem State.loadShift_pc (b : Byte) (s : State) : (s.loadShift b).pc = s.pc := rfl
@[simp] theorem State.loadShift_wt (b : Byte) (s : State) : (s.loadShift b).wt = s.wt := rfl
@[simp] theorem State.loadShift_sync (b : Byte) (s : State) : (s.loadShift b).sync = s.sync := rfl
@[simp] theorem State.loadShift_evt (b : Byte) (s : State) : (s.loadShift b).evt = s.evt := rfl
@[simp] theorem State.loadShift_dp (b : Byte) (s : State) : (s.loadShift b).dp = s.dp := rfl
@[simp] theorem State.loadShift_spi (b : Byte) (s : State) : (s.loadShift b).spi = { s.spi with sr := b, bitcnt := 0, busy := true } := rfl
@[simp] theorem State.loadShift_dt (b : Byte) (s : State) : (s.loadShift b).dt = s.dt := rfl
@[simp] theorem State.loadShift_seq (b : Byte) (s : State) : (s.loadShift b).seq = s.seq := rfl
@[simp] theorem State.loadShift_out (b : Byte) (s : State) : (s.loadShift b).out = s.out := rfl
@[simp] theorem State.loadShift_env (b : Byte) (s : State) : (s.loadShift b).env = s.env := rfl
@[simp] theorem State.loadShift_freeIdx (b : Byte) (s : State) : (s.loadShift b).freeIdx = s.freeIdx := rfl

/-! `State.setTmp` -/

@[simp] theorem State.setTmp_cfg (v : Word) (s : State) : (s.setTmp v).cfg = s.cfg := rfl
@[simp] theorem State.setTmp_pc (v : Word) (s : State) : (s.setTmp v).pc = s.pc := rfl
@[simp] theorem State.setTmp_wt (v : Word) (s : State) : (s.setTmp v).wt = s.wt := rfl
@[simp] theorem State.setTmp_sync (v : Word) (s : State) : (s.setTmp v).sync = s.sync := rfl
@[simp] theorem State.setTmp_evt (v : Word) (s : State) : (s.setTmp v).evt = s.evt := rfl
@[simp] theorem State.setTmp_dp (v : Word) (s : State) : (s.setTmp v).dp = s.dp := rfl
@[simp] theorem State.setTmp_spi (v : Word) (s : State) : (s.setTmp v).spi = s.spi := rfl
@[simp] theorem State.setTmp_dt (v : Word) (s : State) : (s.setTmp v).dt = s.dt := rfl
@[simp] theorem State.setTmp_seq (v : Word) (s : State) : (s.setTmp v).seq = { s.seq with tmp := v } := rfl
@[simp] theorem State.setTmp_out (v : Word) (s : State) : (s.setTmp v).out = s.out := rfl
@[simp] theorem State.setTmp_env (v : Word) (s : State) : (s.setTmp v).env = s.env := rfl
@[simp] theorem State.setTmp_freeIdx (v : Word) (s : State) : (s.setTmp v).freeIdx = s.freeIdx := rfl

/-! `State.popMove` -/

@[simp] theorem State.popMove_cfg (s : State) : (s.popMove).cfg = s.cfg := rfl
@[simp] theorem State.popMove_pc (s : State) : (s.popMove).pc = s.pc := rfl
@[simp] theorem State.popMove_wt (s : State) : (s.popMove).wt = s.wt := rfl
@[simp] theorem State.popMove_sync (s : State) : (s.popMove).sync = s.sync := rfl
@[simp] theorem State.popMove_evt (s : State) : (s.popMove).evt = s.evt := rfl
@[simp] theorem State.popMove_dp (s : State) : (s.popMove).dp = s.dp := rfl
@[simp] theorem State.popMove_spi (s : State) : (s.popMove).spi = s.spi := rfl
@[simp] theorem State.popMove_dt (s : State) : (s.popMove).dt = s.dt := rfl
@[simp] theorem State.popMove_seq (s : State) : (s.popMove).seq = s.seq := rfl
@[simp] theorem State.popMove_out (s : State) : (s.popMove).out = s.out := rfl
@[simp] theorem State.popMove_env (s : State) : (s.popMove).env = { s.env with inputs := s.env.inputs.tail } := rfl
@[simp] theorem State.popMove_freeIdx (s : State) : (s.popMove).freeIdx = s.freeIdx := rfl

/-! `State.setEvt` and `State.fireEvent` -/

@[simp] theorem State.setEvt_cfg (v : BitVec 3) (s : State) : (s.setEvt v).cfg = s.cfg := by unfold State.setEvt; split <;> rfl
@[simp] theorem State.setEvt_pc (v : BitVec 3) (s : State) : (s.setEvt v).pc = s.pc := by unfold State.setEvt; split <;> rfl
@[simp] theorem State.setEvt_wt (v : BitVec 3) (s : State) : (s.setEvt v).wt = s.wt := by unfold State.setEvt; split <;> rfl
@[simp] theorem State.setEvt_sync (v : BitVec 3) (s : State) : (s.setEvt v).sync = s.sync := by unfold State.setEvt; split <;> rfl
@[simp] theorem State.setEvt_dp (v : BitVec 3) (s : State) : (s.setEvt v).dp = s.dp := by unfold State.setEvt; split <;> rfl
@[simp] theorem State.setEvt_spi (v : BitVec 3) (s : State) : (s.setEvt v).spi = s.spi := by unfold State.setEvt; split <;> rfl
@[simp] theorem State.setEvt_dt (v : BitVec 3) (s : State) : (s.setEvt v).dt = s.dt := by unfold State.setEvt; split <;> rfl
@[simp] theorem State.setEvt_seq (v : BitVec 3) (s : State) : (s.setEvt v).seq = s.seq := by unfold State.setEvt; split <;> rfl
@[simp] theorem State.setEvt_env (v : BitVec 3) (s : State) : (s.setEvt v).env = s.env := by unfold State.setEvt; split <;> rfl
@[simp] theorem State.setEvt_freeIdx (v : BitVec 3) (s : State) : (s.setEvt v).freeIdx = s.freeIdx := by unfold State.setEvt; split <;> rfl
@[simp] theorem State.setEvt_evt (v : BitVec 3) (s : State) : (s.setEvt v).evt = v := by
  unfold State.setEvt; split
  · next h => exact h.symm
  · rfl
@[simp] theorem State.setEvt_responses (v : BitVec 3) (s : State) :
    (s.setEvt v).out.responses = s.out.responses := by unfold State.setEvt; split <;> rfl
theorem State.setEvt_pinTrace (v : BitVec 3) (s : State) :
    (s.setEvt v).out.pinTrace = if v = s.evt then s.out.pinTrace else .evt v :: s.out.pinTrace := by
  unfold State.setEvt; split <;> rfl

@[simp] theorem State.fireEvent_cfg (i : Nat) (s : State) : (s.fireEvent i).cfg = s.cfg := by simp [State.fireEvent]
@[simp] theorem State.fireEvent_pc (i : Nat) (s : State) : (s.fireEvent i).pc = s.pc := by simp [State.fireEvent]
@[simp] theorem State.fireEvent_wt (i : Nat) (s : State) : (s.fireEvent i).wt = s.wt := by simp [State.fireEvent]
@[simp] theorem State.fireEvent_sync (i : Nat) (s : State) : (s.fireEvent i).sync = s.sync := by simp [State.fireEvent]
@[simp] theorem State.fireEvent_dp (i : Nat) (s : State) : (s.fireEvent i).dp = s.dp := by simp [State.fireEvent]
@[simp] theorem State.fireEvent_spi (i : Nat) (s : State) : (s.fireEvent i).spi = s.spi := by simp [State.fireEvent]
@[simp] theorem State.fireEvent_dt (i : Nat) (s : State) : (s.fireEvent i).dt = s.dt := by simp [State.fireEvent]
@[simp] theorem State.fireEvent_seq (i : Nat) (s : State) : (s.fireEvent i).seq = s.seq := by simp [State.fireEvent]
@[simp] theorem State.fireEvent_env (i : Nat) (s : State) : (s.fireEvent i).env = s.env := by simp [State.fireEvent]
@[simp] theorem State.fireEvent_freeIdx (i : Nat) (s : State) : (s.fireEvent i).freeIdx = s.freeIdx := by simp [State.fireEvent]
@[simp] theorem State.fireEvent_evt (i : Nat) (s : State) :
    (s.fireEvent i).evt = s.evt ||| BitVec.twoPow 3 i := by simp [State.fireEvent]
@[simp] theorem State.fireEvent_responses (i : Nat) (s : State) :
    (s.fireEvent i).out.responses = s.out.responses := by simp [State.fireEvent]

/-! `State.storeShadow`, `State.accept` and `State.applyReset` -/

@[simp] theorem State.storeShadow_cfg (s : State) : s.storeShadow.cfg = s.cfg := by unfold State.storeShadow; split <;> rfl
@[simp] theorem State.storeShadow_pc (s : State) : s.storeShadow.pc = s.pc := by unfold State.storeShadow; split <;> rfl
@[simp] theorem State.storeShadow_wt (s : State) : s.storeShadow.wt = s.wt := by unfold State.storeShadow; split <;> rfl
@[simp] theorem State.storeShadow_sync (s : State) : s.storeShadow.sync = s.sync := by unfold State.storeShadow; split <;> rfl
@[simp] theorem State.storeShadow_evt (s : State) : s.storeShadow.evt = s.evt := by unfold State.storeShadow; split <;> rfl
@[simp] theorem State.storeShadow_spi (s : State) : s.storeShadow.spi = s.spi := by unfold State.storeShadow; split <;> rfl
@[simp] theorem State.storeShadow_dt (s : State) : s.storeShadow.dt = s.dt := by unfold State.storeShadow; split <;> rfl
@[simp] theorem State.storeShadow_seq (s : State) : s.storeShadow.seq = s.seq := by unfold State.storeShadow; split <;> rfl
@[simp] theorem State.storeShadow_out (s : State) : s.storeShadow.out = s.out := by unfold State.storeShadow; split <;> rfl
@[simp] theorem State.storeShadow_env (s : State) : s.storeShadow.env = s.env := by unfold State.storeShadow; split <;> rfl
theorem State.storeShadow_dp_of_fits (s : State) (h : s.seq.tmp.toNat < 2 ^ s.cfg.shadowBits) :
    s.storeShadow.dp = s.seq.tmp := by simp [State.storeShadow, h]
@[simp] theorem State.accept_cfg (bytes : List Byte) (s : State) : (s.accept bytes).cfg = s.cfg := by unfold State.accept; split <;> rfl
@[simp] theorem State.accept_pc (bytes : List Byte) (s : State) : (s.accept bytes).pc = s.pc := by unfold State.accept; split <;> rfl
@[simp] theorem State.accept_wt (bytes : List Byte) (s : State) : (s.accept bytes).wt = s.wt := by unfold State.accept; split <;> rfl
@[simp] theorem State.accept_sync (bytes : List Byte) (s : State) : (s.accept bytes).sync = s.sync := by unfold State.accept; split <;> rfl
@[simp] theorem State.accept_evt (bytes : List Byte) (s : State) : (s.accept bytes).evt = s.evt := by unfold State.accept; split <;> rfl
@[simp] theorem State.accept_dp (bytes : List Byte) (s : State) : (s.accept bytes).dp = s.dp := by unfold State.accept; split <;> rfl
@[simp] theorem State.accept_spi (bytes : List Byte) (s : State) : (s.accept bytes).spi = s.spi := by unfold State.accept; split <;> rfl
@[simp] theorem State.accept_dt (bytes : List Byte) (s : State) : (s.accept bytes).dt = s.dt := by unfold State.accept; split <;> rfl
@[simp] theorem State.accept_out (bytes : List Byte) (s : State) : (s.accept bytes).out = s.out := by unfold State.accept; split <;> rfl
@[simp] theorem State.accept_env (bytes : List Byte) (s : State) : (s.accept bytes).env = s.env := by unfold State.accept; split <;> rfl
@[simp] theorem State.accept_freeIdx (bytes : List Byte) (s : State) : (s.accept bytes).freeIdx = s.freeIdx := by unfold State.accept; split <;> rfl
@[simp] theorem State.applyReset_cfg (s : State) : s.applyReset.cfg = s.cfg := rfl
@[simp] theorem State.applyReset_env (s : State) : s.applyReset.env = s.env := rfl
@[simp] theorem State.applyReset_freeIdx (s : State) : s.applyReset.freeIdx = s.freeIdx := rfl
@[simp] theorem State.applyReset_evt (s : State) : s.applyReset.evt = 0 := rfl
@[simp] theorem State.applyReset_out (s : State) : s.applyReset.out = { s.out with pinTrace := .reset :: s.out.pinTrace } := rfl
theorem State.applyReset_pc (s : State) : s.applyReset.pc = (State.resetWith s.cfg).pc := rfl
theorem State.applyReset_wt (s : State) : s.applyReset.wt = (State.resetWith s.cfg).wt := rfl
theorem State.applyReset_sync (s : State) : s.applyReset.sync = (State.resetWith s.cfg).sync := rfl
theorem State.applyReset_dp (s : State) : s.applyReset.dp = (State.resetWith s.cfg).dp := rfl
theorem State.applyReset_spi (s : State) : s.applyReset.spi = (State.resetWith s.cfg).spi := rfl
theorem State.applyReset_dt (s : State) : s.applyReset.dt = (State.resetWith s.cfg).dt := rfl
theorem State.applyReset_seq (s : State) : s.applyReset.seq = (State.resetWith s.cfg).seq := rfl

/-! `withUnitsOf` -/

@[simp] theorem withUnitsOf_cfg (x s : State) : (withUnitsOf x s).cfg = s.cfg := rfl
@[simp] theorem withUnitsOf_pc (x s : State) : (withUnitsOf x s).pc = x.pc := rfl
@[simp] theorem withUnitsOf_wt (x s : State) : (withUnitsOf x s).wt = x.wt := rfl
@[simp] theorem withUnitsOf_sync (x s : State) : (withUnitsOf x s).sync = x.sync := rfl
@[simp] theorem withUnitsOf_evt (x s : State) : (withUnitsOf x s).evt = x.evt := rfl
@[simp] theorem withUnitsOf_dp (x s : State) : (withUnitsOf x s).dp = x.dp := rfl
@[simp] theorem withUnitsOf_spi (x s : State) : (withUnitsOf x s).spi = s.spi := rfl
@[simp] theorem withUnitsOf_dt (x s : State) : (withUnitsOf x s).dt = x.dt := rfl
@[simp] theorem withUnitsOf_seq (x s : State) : (withUnitsOf x s).seq = s.seq := rfl
@[simp] theorem withUnitsOf_out (x s : State) : (withUnitsOf x s).out = s.out := rfl
@[simp] theorem withUnitsOf_env (x s : State) : (withUnitsOf x s).env = s.env := rfl
@[simp] theorem withUnitsOf_freeIdx (x s : State) : (withUnitsOf x s).freeIdx = s.freeIdx := rfl

end Sys2Proof.Machine
end

