-- ==== Sys2Proof/Laws/Ops.lean ====
section
/-! SUPPORT. For each shared operation, once, everything it can do; and the shape of an agent's step. -/

namespace Sys2Proof.Machine

/-! ### The sequencer's primitive steps -/

/-- An operation runs the step of index `SEQ_STEP`. -/
theorem performStep_of_getElem? {steps : List PrimStep} {s : State} {f : PrimStep}
    (h : steps[s.seq.step]? = some f) : performStep steps s = f s := by simp [performStep, h]

/-- An operation goes on only by a step of its list. -/
theorem performStep_next {steps : List PrimStep} {s t : State} (h : performStep steps s = .next t) :
    ∃ f, steps[s.seq.step]? = some f ∧ f s = .next t := by
  unfold performStep at h
  split at h
  · next f hf => exact ⟨f, hf, h⟩
  · cases h

@[simp] theorem write_apply (f : State → State) (s : State) : write f s = .next (f s).advance := rfl
@[simp] theorem respond_apply (value : State → List Byte) (s : State) :
    respond value s = .next (s.deliver statusOk (value s)) := rfl
@[simp] theorem respondOk_apply (s : State) : respondOk s = .next (s.deliver statusOk []) := rfl
@[simp] theorem raiseFail_apply (s : State) : raiseFail s = .next (s.deliver statusFail []) := rfl
@[simp] theorem raiseIllegal_apply (s : State) : raiseIllegal s = .next (s.deliver statusIllegal []) := rfl
@[simp] theorem assertCs_apply (s : State) : assertCs s = .next (s.driveCs (csActive s.cfg)).advance := rfl
@[simp] theorem releaseCs_apply (s : State) : releaseCs s = .next (s.driveCs (csInactive s.cfg)).advance := rfl
@[simp] theorem loadByte_apply (b : State → Byte) (s : State) :
    loadByte b s = .next (s.loadShift (b s)).advance := rfl

/-- A check passes on or ends the operation with `ILLEGAL`. -/
theorem illegalIf_cases (bad : State → Bool) (s : State) :
    (bad s = true ∧ illegalIf bad s = .next (s.deliver statusIllegal [])) ∨
    (bad s = false ∧ illegalIf bad s = .next s.advance) := by
  cases h : bad s <;> simp [illegalIf, h]

/-- A check passes on or ends the operation with `FAIL`. -/
theorem failIf_cases (bad : State → Bool) (s : State) :
    (bad s = true ∧ failIf bad s = .next (s.deliver statusFail [])) ∨
    (bad s = false ∧ failIf bad s = .next s.advance) := by
  cases h : bad s <;> simp [failIf, h]

/-- A wait step changes nothing while the byte is in flight and passes on afterwards. -/
theorem waitTransfer_cases (s : State) :
    (s.spi.busy = true ∧ waitTransfer s = .next s) ∨ (s.spi.busy = false ∧ waitTransfer s = .next s.advance) := by
  cases h : s.spi.busy <;> simp [waitTransfer, h]

/-- `DP_SHADOW` takes `SEQ_TMP`, or a free value where that does not fit its width. -/
theorem storeShadow_cases (s : State) :
    (s.seq.tmp.toNat < 2 ^ s.cfg.shadowBits ∧ s.storeShadow = { s with dp := s.seq.tmp }) ∨
    (2 ^ s.cfg.shadowBits ≤ s.seq.tmp.toNat ∧ ∃ v : Word, v.toNat < 2 ^ s.cfg.shadowBits ∧
      s.storeShadow = { s with dp := v, freeIdx := s.freeIdx + 1 }) := by
  by_cases h : s.seq.tmp.toNat < 2 ^ s.cfg.shadowBits
  · exact .inl ⟨h, by simp [State.storeShadow, h]⟩
  · refine .inr ⟨by omega, _, ?_, by simp only [State.storeShadow, if_neg h]; rfl⟩
    have : Config.freeShadow s.freeIdx % 2 ^ s.cfg.shadowBits < 2 ^ s.cfg.shadowBits :=
      Nat.mod_lt _ (Nat.two_pow_pos _)
    rw [BitVec.toNat_ofNat]
    exact Nat.lt_of_le_of_lt (Nat.mod_le _ _) this

/-- A command is accepted exactly when the sequencer is idle. -/
theorem accept_cases (bytes : List Byte) (s : State) :
    (s.seq.busy = true ∧ s.accept bytes = s) ∨
    (s.seq.busy = false ∧ s.accept bytes =
      { s with seq.busy := true, seq.op := bytes, seq.step := 0, seq.space := .host }) := by
  cases h : s.seq.busy <;> simp [State.accept, h]

@[simp] theorem spiFrame_one (b : State → Byte) :
    spiFrame [b] = [assertCs, loadByte b, waitTransfer, releaseCs] := rfl

@[simp] theorem spiFrame_two (b c : State → Byte) :
    spiFrame [b, c] = [assertCs, loadByte b, waitTransfer, loadByte c, waitTransfer, releaseCs] := rfl

/-! ### The steps of the hardware agents -/

/-- While `HOLD` = 1 neither CLK nor EDGE changes anything. -/
theorem clkStep_of_hold {s : State} (h : s.sync.hold = true) : clkStep s = s := by simp [clkStep, h]
theorem edgeStep_of_hold {s : State} (h : s.sync.hold = true) : edgeStep s = s := by simp [edgeStep, h]
theorem edgeStep_of_stopped {s : State} (h : s.pc.run = false) : edgeStep s = s := by simp [edgeStep, h]

/-- Everything an edge can do. -/
theorem edgeStep_cases (s : State) :
    edgeStep s = s ∨ (s.pc.run = true ∧ s.sync.hold = false ∧
      (edgeStep s = { s with pc.cnt := (s.pc.cnt + 1) % 2 ^ s.cfg.nPc } ∨
       edgeStep s = ({ s with pc.cnt := (s.pc.cnt + 1) % 2 ^ s.cfg.nPc } : State).fireEvent pcEvt)) := by
  cases hr : s.pc.run <;> cases hh : s.sync.hold <;> simp [edgeStep, hr, hh]
  by_cases h : (s.pc.cnt + 1) % 2 ^ s.cfg.nPc = s.pc.cmp <;> simp [h]

/-- Everything a tick can do. -/
theorem wtTick_cases (s : State) :
    wtTick s = { s with wt.cnt := tickedCount s } ∨
    wtTick s = ({ s with wt.cnt := tickedCount s } : State).fireEvent wtEvt := by
  by_cases h : tickedCount s = s.wt.cmp <;> simp [wtTick, h]

/-- Everything a base-clock period can do. -/
theorem clkStep_cases (s : State) :
    (s.sync.hold = true ∧ clkStep s = s) ∨ (s.sync.hold = false ∧
      (clkStep s = { s with sync.psc := (s.sync.psc + 1) % 2 ^ s.cfg.pscBits } ∨
       (s.wt.cs ≠ 0 ∧
        clkStep s = wtTick { s with sync.psc := (s.sync.psc + 1) % 2 ^ s.cfg.pscBits }))) := by
  cases hh : s.sync.hold
  · refine .inr ⟨rfl, ?_⟩
    cases ht : tapTicks s ((s.sync.psc + 1) % 2 ^ s.cfg.pscBits)
    · exact .inl (by simp [clkStep, hh, ht])
    · have : s.wt.cs ≠ 0 := by
        intro h0; simp [tapTicks, h0] at ht
      exact .inr ⟨this, by simp [clkStep, hh, ht]⟩
  · exact .inl ⟨rfl, clkStep_of_hold hh⟩

/-- Everything a display tick step can do. -/
theorem dtStep_cases (s : State) :
    dtStep s = { s with dt.cnt := (s.dt.cnt + 1) % s.cfg.dtPeriod } ∨
    dtStep s = ({ s with dt.cnt := (s.dt.cnt + 1) % s.cfg.dtPeriod } : State).fireEvent dtEvt := by
  by_cases h : (s.dt.cnt + 1) % s.cfg.dtPeriod = 0 ∧ s.dt.run = true
  · exact .inr (by simp only [dtStep, if_pos h])
  · exact .inl (by simp only [dtStep, if_neg h])

/-- The pin writes of one bit touch the clock, the data line and the trace alone; the clock ends at its idle level. -/
theorem shiftPins_spec (bit : Bool) (s : State) :
    s.shiftPins bit = { s with
      spi.sck := s.cfg.cpol, spi.mosi := bit
      out.pinTrace := .sck s.cfg.cpol ::
        (if s.cfg.cpha then [.mosi bit, .sck (!s.cfg.cpol)] else [.sck (!s.cfg.cpol), .mosi bit]) ++
        s.out.pinTrace } := by
  cases h : s.cfg.cpha <;> simp [State.shiftPins, h, State.driveSck, State.driveMosi]

/-- Everything the shift engine can do. -/
theorem engBitStep_cases (s : State) :
    engBitStep s = s ∨ (s.spi.busy = true ∧ s.env.spiReady = true ∧
      engBitStep s = { s.shiftPins (shiftedBit s) with
        spi.bitcnt := s.spi.bitcnt + 1, spi.busy := decide (s.spi.bitcnt + 1 ≠ 8) }) := by
  cases hb : s.spi.busy <;> cases hr : s.env.spiReady <;> simp [engBitStep, hb, hr]

/-! ### Moves and steps -/

/-- One step takes the next move. -/
theorem step_eq (s : State) : step s = takeMove s.nextMove s.popMove := rfl

theorem nextMove_cons {s : State} {m : Move} {ms : List Move} (h : s.env.inputs = m :: ms) : s.nextMove = m := by
  simp [State.nextMove, h]

/-- A run over no moves. -/
@[simp] theorem runMoves_nil (s : State) :
    runMoves [] s = .next { s with env.inputs := [] } := rfl

end Sys2Proof.Machine
end

