-- ==== Sys2Proof/Laws/Operands.lean ====
section
/-! SUPPORT. For each operand and flag operation, once, everything it can do. -/

namespace Sys2Proof.Machine

/-! ### Event flags -/

/-- A write of `EVT` changes the flags and, when the levels change, the pin trace; nothing else. -/
theorem setEvt_spec (v : BitVec 3) (s : State) :
    s.setEvt v = { s with
      evt := v, out.pinTrace := if v = s.evt then s.out.pinTrace else .evt v :: s.out.pinTrace } := by
  by_cases h : v = s.evt <;> simp [State.setEvt, h]

/-- An event sets its flag. -/
theorem fireEvent_evt (i : Nat) (s : State) : (s.fireEvent i).evt = s.evt ||| BitVec.twoPow 3 i := by
  rw [State.fireEvent, setEvt_spec]

/-- An event sets its own flag and leaves the others. -/
theorem fireEvent_getLsbD (i k : Nat) (hi : i < 3) (s : State) :
    (s.fireEvent i).evt.getLsbD k = (s.evt.getLsbD k || decide (k = i)) := by
  rw [fireEvent_evt, BitVec.getLsbD_or, BitVec.getLsbD_twoPow]
  by_cases h : k = i
  · subst h; simp [hi]
  · have : ¬ i = k := fun h' => h h'.symm
    simp [h, this]

/-! ### Divisor table -/

/-- A value is a key of `DIV` exactly when `DIV` has an entry for it. -/
theorem isKey_iff (p : Params) (n : Nat) : isKey p n = true ↔ ∃ d, (n, d) ∈ p.div := by
  unfold isKey divisor
  induction p.div with
  | nil => simp
  | cons e l ih =>
    obtain ⟨a, b⟩ := e
    by_cases h : n = a
    · subst h; simp
    · have hb : (n == a) = false := by simp [h]
      simp [List.lookup_cons, hb, ih, h]

/-! ### Byte samples -/

theorem getLsbD_widthMask (n k : Nat) (hk : k < 16) : (widthMask n).getLsbD k = decide (k < n) := by
  rw [widthMask, BitVec.getLsbD_ofNat, Nat.testBit_two_pow_sub_one]; simp [hk]

theorem getLsbD_lowMask (k : Nat) : (0x00FF#16).getLsbD k = decide (k < 8) := by
  by_cases hk : k < 16
  · interval_cases k <;> rfl
  · rw [BitVec.getLsbD_of_ge _ _ (by omega)]; symm; simp; omega

theorem getLsbD_highMask (k : Nat) (hk : k < 16) : (0xFF00#16).getLsbD k = decide (8 ≤ k) := by
  interval_cases k <;> rfl

/-- The sample of the low byte replaces bits 7:0. -/
theorem getLsbD_sampleLow (v tmp : Word) (k : Nat) (hk : k < 16) :
    (sampleLow v tmp).getLsbD k = if k < 8 then v.getLsbD k else tmp.getLsbD k := by
  rw [sampleLow, BitVec.getLsbD_or, BitVec.getLsbD_and, BitVec.getLsbD_and, getLsbD_lowMask, getLsbD_highMask k hk]
  by_cases h : k < 8
  · have : ¬ 8 ≤ k := by omega
    simp [h, this]
  · have : 8 ≤ k := by omega
    simp [h, this]

/-- The sample of the high byte replaces bits n-1:8. -/
theorem getLsbD_sampleHigh (n : Nat) (v tmp : Word) (k : Nat) (hk : k < 16) :
    (sampleHigh n v tmp).getLsbD k = if 8 ≤ k ∧ k < n then v.getLsbD k else tmp.getLsbD k := by
  rw [sampleHigh, BitVec.getLsbD_or, BitVec.getLsbD_and, BitVec.getLsbD_and, BitVec.getLsbD_not, BitVec.getLsbD_and,
    getLsbD_widthMask n k hk, getLsbD_highMask k hk]
  by_cases h : 8 ≤ k <;> by_cases h2 : k < n <;> simp [h, h2, hk]

/-! ### Wire words -/

/-- The two bytes of a word, joined, are the word. -/
theorem joinBytes_bytes (w : Word) : joinBytes (hiByte w) (loByte w) = w := by
  ext k hk
  rw [← BitVec.getLsbD_eq_getElem, ← BitVec.getLsbD_eq_getElem, joinBytes, BitVec.getLsbD_append, hiByte, loByte,
    BitVec.getLsbD_extractLsb', BitVec.getLsbD_extractLsb']
  by_cases h : k < 8
  · simp [h]
  · have h2 : 8 + (k - 8) = k := by omega
    have h3 : k - 8 < 8 := by omega
    simp [h, h2, h3]

/-- `DpEncode` is the concatenation of its three fields, the payload masked. -/
theorem dpEncode_eq_append (addr : BitVec 4) (cmd : BitVec 2) (data : Word) :
    dpEncode addr cmd data = addr ++ cmd ++ data.extractLsb' 0 10 := by
  have hm : ∀ k < 16, (0x03FF#16).getLsbD k = decide (k < 10) := by
    intro k hk; interval_cases k <;> rfl
  ext k hk
  rw [← BitVec.getLsbD_eq_getElem, ← BitVec.getLsbD_eq_getElem]
  simp only [dpEncode, BitVec.getLsbD_or, BitVec.getLsbD_and, hm k hk, BitVec.getLsbD_append,
    BitVec.getLsbD_extractLsb', BitVec.getLsbD_shiftLeft, BitVec.getLsbD_setWidth]
  by_cases h : k < 10
  · have h1 : k < 12 := by omega
    simp [h, h1]
  · by_cases h1 : k < 12
    · have h2 : k - 10 < 2 := by omega
      have h3 : k - 10 < 16 := by omega
      simp [h, h1, hk, h2, h3]
    · have h2 : ¬ k - 10 < 2 := by omega
      have h3 : k - 10 - 2 = k - 12 := by omega
      have h4 : k - 12 < 16 := by omega
      rw [BitVec.getLsbD_of_ge cmd (k - 10) (by omega)]
      simp [h, h1, hk, h2, h3, h4]

end Sys2Proof.Machine
end

