-- ==== Sys2Proof/Laws/PerInstr.lean ====
section
/-! SUPPORT. Facts about every instruction as syntax, one lemma per constructor. -/

namespace Sys2Proof.Laws

/-- A host command is a byte string of 1 to 257 bytes, and a wire word has two (30_encoding.md R70, R71). -/
def EncodedLength.Statement (i : Instr) : Prop :=
  ∀ p : Params, i.wellFormed = true → 1 ≤ (encode p i).length ∧ (encode p i).length ≤ 257

theorem EncodedLength.pcEnable : EncodedLength.Statement .pcEnable := fun _ _ => by simp [encode]
theorem EncodedLength.pcDisable : EncodedLength.Statement .pcDisable := fun _ _ => by simp [encode]
theorem EncodedLength.pcClear : EncodedLength.Statement .pcClear := fun _ _ => by simp [encode]
theorem EncodedLength.pcRead : EncodedLength.Statement .pcRead := fun _ _ => by simp [encode]
theorem EncodedLength.pcSetcmp (v : Word) : EncodedLength.Statement (.pcSetcmp v) := fun _ _ => by simp [encode, wordBytes]
theorem EncodedLength.wtInit : EncodedLength.Statement .wtInit := fun _ _ => by simp [encode]
theorem EncodedLength.wtStart : EncodedLength.Statement .wtStart := fun _ _ => by simp [encode]
theorem EncodedLength.wtStop : EncodedLength.Statement .wtStop := fun _ _ => by simp [encode]
theorem EncodedLength.wtRead : EncodedLength.Statement .wtRead := fun _ _ => by simp [encode]
theorem EncodedLength.wtSetcmp (v : Word) : EncodedLength.Statement (.wtSetcmp v) := fun _ _ => by simp [encode, wordBytes]
theorem EncodedLength.wtSetruncs (v : Byte) : EncodedLength.Statement (.wtSetruncs v) := fun _ _ => by simp [encode]
theorem EncodedLength.wtClr : EncodedLength.Statement .wtClr := fun _ _ => by simp [encode]
theorem EncodedLength.syncHold : EncodedLength.Statement .syncHold := fun _ _ => by simp [encode]
theorem EncodedLength.wtSetcs (v : Byte) : EncodedLength.Statement (.wtSetcs v) := fun _ _ => by simp [encode]
theorem EncodedLength.pscReset : EncodedLength.Statement .pscReset := fun _ _ => by simp [encode]
theorem EncodedLength.syncRelease : EncodedLength.Statement .syncRelease := fun _ _ => by simp [encode]
theorem EncodedLength.spiWrite8 (v : Byte) : EncodedLength.Statement (.spiWrite8 v) := fun _ _ => by simp [encode]
theorem EncodedLength.spiWrite16 (v : Word) : EncodedLength.Statement (.spiWrite16 v) := fun _ _ => by simp [encode, wordBytes]
theorem EncodedLength.dpInc : EncodedLength.Statement .dpInc := fun _ _ => by simp [encode]
theorem EncodedLength.dpDec : EncodedLength.Statement .dpDec := fun _ _ => by simp [encode]
theorem EncodedLength.dpSetText (v : List Byte) : EncodedLength.Statement (.dpSetText v) := fun _ h => by
  have h : v.length ≤ 255 := by simpa [Instr.wellFormed] using h
  simp only [encode, List.length_cons]; omega
theorem EncodedLength.dpSetNum (v : Word) : EncodedLength.Statement (.dpSetNum v) := fun _ _ => by simp [encode, wordBytes]
theorem EncodedLength.dpGet : EncodedLength.Statement .dpGet := fun _ _ => by simp [encode]
theorem EncodedLength.dtStart : EncodedLength.Statement .dtStart := fun _ _ => by simp [encode]
theorem EncodedLength.dtStop : EncodedLength.Statement .dtStop := fun _ _ => by simp [encode]
theorem EncodedLength.evtRead : EncodedLength.Statement .evtRead := fun _ _ => by simp [encode]
theorem EncodedLength.evtAck (v : Byte) : EncodedLength.Statement (.evtAck v) := fun _ _ => by simp [encode]
theorem EncodedLength.wireWrite (a : BitVec 4) (d : BitVec 10) : EncodedLength.Statement (.wireWrite a d) := fun _ _ => by simp [encode, wordBytes]
theorem EncodedLength.wireIncr (a : BitVec 4) (d : BitVec 10) : EncodedLength.Statement (.wireIncr a d) := fun _ _ => by simp [encode, wordBytes]
theorem EncodedLength.wireDecr (a : BitVec 4) (d : BitVec 10) : EncodedLength.Statement (.wireDecr a d) := fun _ _ => by simp [encode, wordBytes]
theorem EncodedLength.wireRead (a : BitVec 4) (d : BitVec 10) : EncodedLength.Statement (.wireRead a d) := fun _ _ => by simp [encode, wordBytes]

end Sys2Proof.Laws
end

