-- ==== Sys2Proof/Laws/Receiver.lean ====
section
/-! SUPPORT. What a receiver of the SPI wire sees of each pin write of the block, and what the moves of CLK, EDGE and DT
leave alone. -/

namespace Sys2Proof.Machine

@[simp] theorem received_nil (p : Params) : received p [] = Receiver.start p := rfl
@[simp] theorem received_cons (p : Params) (w : PinWrite) (trace : List PinWrite) :
    received p (w :: trace) = Receiver.see p w (received p trace) := rfl

/-- The receiver of the wire of `s` is selected or not, has sampled `bits` in the frame that is open, has completed
`frames`, sees the clock at its idle level, and chip-select has been written `n` times. -/
def State.seenAs (selected : Bool) (bits : List Bool) (frames : List (List Bool)) (n : Nat) (s : State) : Prop :=
  let r := received s.cfg s.out.pinTrace
  r.selected = selected ∧ r.sck = s.cfg.cpol ∧ (selected = true → r.bits = bits) ∧ r.frames = frames ∧
    s.out.pinTrace.countP isCsWrite = n

/-- Asserting chip-select opens a frame. -/
theorem seenAs_assert {bits : List Bool} {frames : List (List Bool)} {n : Nat} {s : State}
    (h : s.seenAs false bits frames n) : (s.driveCs (csActive s.cfg)).seenAs true [] frames (n + 1) := by
  obtain ⟨h1, h2, -, h4, h5⟩ := h
  refine ⟨?_, ?_, ?_, ?_, ?_⟩ <;>
    simp [State.driveCs, Receiver.see, h2, h4, h5, List.countP_cons, isCsWrite]

/-- Releasing chip-select completes the frame. -/
theorem seenAs_release {bits : List Bool} {frames : List (List Bool)} {n : Nat} {s : State}
    (h : s.seenAs true bits frames n) : (s.driveCs (csInactive s.cfg)).seenAs false [] (bits :: frames) (n + 1) := by
  obtain ⟨h1, h2, h3, h4, h5⟩ := h
  refine ⟨?_, ?_, ?_, ?_, ?_⟩ <;>
    simp [State.driveCs, csActive, csInactive, Receiver.see, h1, h2, h3 rfl, h4, h5, List.countP_cons, isCsWrite]

/-- The pin writes of one bit add that bit, in either clock phase and polarity. -/
theorem seenAs_shiftPins {bits : List Bool} {frames : List (List Bool)} {n : Nat} {s : State}
    (h : s.seenAs true bits frames n) (bit : Bool) : (s.shiftPins bit).seenAs true (bits ++ [bit]) frames n := by
  obtain ⟨h1, h2, h3, h4, h5⟩ := h
  rw [shiftPins_spec]
  unfold State.seenAs
  cases hc : s.cfg.cpha <;> cases hp : s.cfg.cpol <;>
  · simp only [hp] at h2 ⊢
    refine ⟨?_, ?_, ?_, ?_, ?_⟩ <;>
      simp [Receiver.see, Receiver.samplesAt, h1, h2, h3 rfl, h4, h5, isCsWrite, hc, hp]

/-- A write of the event flags is nothing to the receiver. -/
theorem seenAs_setEvt {selected : Bool} {bits : List Bool} {frames : List (List Bool)} {n : Nat} {s : State}
    (h : s.seenAs selected bits frames n) (e : BitVec 3) : (s.setEvt e).seenAs selected bits frames n := by
  unfold State.setEvt
  split
  · exact h
  · obtain ⟨h1, h2, h3, h4, h5⟩ := h
    refine ⟨?_, ?_, ?_, ?_, ?_⟩ <;> simp [Receiver.see, h1, h2, h4, h5, isCsWrite]
    simpa using h3

/-- The first `k + 1` bits of a byte are the first `k` and the bit that the engine shifts out next. -/
theorem byteBits_take_succ (p : Params) (b : Byte) (k : Nat) (hk : k < 8) :
    (byteBits p b).take (k + 1) =
      (byteBits p b).take k ++ [if p.lsbFirst then b.getLsbD k else b.getLsbD (7 - k)] := by
  have hlen : k < (byteBits p b).length := by simp [byteBits, hk]
  rw [List.take_succ_eq_append_getElem hlen]
  congr 2
  simp only [byteBits, List.getElem_map, List.getElem_range]
  cases p.lsbFirst <;> simp [BitVec.getMsbD, hk]

/-! ### What CLK, EDGE and DT leave alone -/

/-- `t` differs from `s` in the counting units, the prescaler, the events and the display tick timer at most, and the
receiver sees no difference. -/
structure HardwareMove (s t : State) : Prop where
  cfg : t.cfg = s.cfg
  seq : t.seq = s.seq
  spi : t.spi = s.spi
  dp : t.dp = s.dp
  freeIdx : t.freeIdx = s.freeIdx
  env : t.env = s.env
  responses : t.out.responses = s.out.responses
  seen : ∀ selected bits frames n, s.seenAs selected bits frames n → t.seenAs selected bits frames n

theorem HardwareMove.fireEvent {s t : State} (h : HardwareMove s t) (i : Nat) :
    HardwareMove s (t.fireEvent i) := by
  have key : ∀ e, (t.setEvt e).cfg = t.cfg ∧ (t.setEvt e).seq = t.seq ∧ (t.setEvt e).spi = t.spi ∧
      (t.setEvt e).dp = t.dp ∧ (t.setEvt e).freeIdx = t.freeIdx ∧ (t.setEvt e).env = t.env ∧
      (t.setEvt e).out.responses = t.out.responses := fun e => by
    unfold State.setEvt; split <;> exact ⟨rfl, rfl, rfl, rfl, rfl, rfl, rfl⟩
  obtain ⟨h1, h2, h3, h4, h5, h6, h7⟩ := key (t.evt ||| BitVec.twoPow 3 i)
  exact ⟨h1.trans h.cfg, h2.trans h.seq, h3.trans h.spi, h4.trans h.dp, h5.trans h.freeIdx, h6.trans h.env,
    h7.trans h.responses, fun _ _ _ _ hs => seenAs_setEvt (h.seen _ _ _ _ hs) _⟩

theorem edgeStep_hardwareMove (s : State) : HardwareMove s (edgeStep s) := by
  rcases edgeStep_cases s with h | ⟨-, -, h | h⟩ <;> rw [h]
  · exact ⟨rfl, rfl, rfl, rfl, rfl, rfl, rfl, fun _ _ _ _ hs => hs⟩
  · exact ⟨rfl, rfl, rfl, rfl, rfl, rfl, rfl, fun _ _ _ _ hs => hs⟩
  · refine HardwareMove.fireEvent (s := s) ?_ _
    exact ⟨rfl, rfl, rfl, rfl, rfl, rfl, rfl, fun _ _ _ _ hs => hs⟩

theorem wtTick_hardwareMove (s : State) : HardwareMove s (wtTick s) := by
  rcases wtTick_cases s with h | h <;> rw [h]
  · exact ⟨rfl, rfl, rfl, rfl, rfl, rfl, rfl, fun _ _ _ _ hs => hs⟩
  · refine HardwareMove.fireEvent (s := s) ?_ _
    exact ⟨rfl, rfl, rfl, rfl, rfl, rfl, rfl, fun _ _ _ _ hs => hs⟩

theorem clkStep_hardwareMove (s : State) : HardwareMove s (clkStep s) := by
  rcases clkStep_cases s with ⟨-, h⟩ | ⟨-, h | ⟨-, h⟩⟩ <;> rw [h]
  · exact ⟨rfl, rfl, rfl, rfl, rfl, rfl, rfl, fun _ _ _ _ hs => hs⟩
  · exact ⟨rfl, rfl, rfl, rfl, rfl, rfl, rfl, fun _ _ _ _ hs => hs⟩
  · have h := wtTick_hardwareMove { s with sync.psc := (s.sync.psc + 1) % 2 ^ s.cfg.pscBits }
    exact ⟨h.cfg, h.seq, h.spi, h.dp, h.freeIdx, h.env, h.responses, h.seen⟩

theorem dtStep_hardwareMove (s : State) : HardwareMove s (dtStep s) := by
  rcases dtStep_cases s with h | h <;> rw [h]
  · exact ⟨rfl, rfl, rfl, rfl, rfl, rfl, rfl, fun _ _ _ _ hs => hs⟩
  · refine HardwareMove.fireEvent (s := s) ?_ _
    exact ⟨rfl, rfl, rfl, rfl, rfl, rfl, rfl, fun _ _ _ _ hs => hs⟩

end Sys2Proof.Machine
end

