-- ==== Sys2Proof/Laws/Runs.lean ====
section
/-! SUPPORT. No move reads the list of moves to come, so a run over a list takes its moves one after the other. -/

namespace Sys2Proof.Machine

/-- A primitive step that does not look at the moves to come. -/
def Blind (f : PrimStep) : Prop :=
  ∀ ms s, f (s.withInputs ms) = onNext (State.withInputs ms) (f s)

theorem blind_write {f : State → State} (h : ∀ ms s, f (s.withInputs ms) = (f s).withInputs ms) :
    Blind (write f) := fun ms s => by simp only [write, onNext, h]; rfl

theorem blind_respond {f : State → List Byte} (h : ∀ ms s, f (s.withInputs ms) = f s) :
    Blind (respond f) := fun ms s => by simp only [respond, onNext, h]; rfl

theorem blind_illegalIf {f : State → Bool} (h : ∀ ms s, f (s.withInputs ms) = f s) :
    Blind (illegalIf f) := fun ms s => by
  simp only [illegalIf, h]; cases f s <;> rfl

theorem blind_failIf {f : State → Bool} (h : ∀ ms s, f (s.withInputs ms) = f s) :
    Blind (failIf f) := fun ms s => by
  simp only [failIf, h]; cases f s <;> rfl

theorem blind_waitTransfer : Blind waitTransfer := fun ms s => by
  simp only [waitTransfer]
  cases h : s.spi.busy <;> simp [State.withInputs, h, onNext, State.advance]

theorem blind_storeShadow (ms : List Move) (s : State) :
    (s.withInputs ms).storeShadow = s.storeShadow.withInputs ms := by
  by_cases h : s.seq.tmp.toNat < 2 ^ s.cfg.shadowBits <;> simp [State.storeShadow, State.withInputs, h]

theorem blind_setEvt (v : BitVec 3) (ms : List Move) (s : State) :
    (s.withInputs ms).setEvt v = (s.setEvt v).withInputs ms := by
  by_cases h : v = s.evt <;> simp [State.setEvt, State.withInputs, h]

/-- An operation made of such steps does not look at the moves to come. -/
theorem blind_performStep {steps : List PrimStep} (h : ∀ f ∈ steps, Blind f) : Blind (performStep steps) :=
  fun ms s => by
    have hs : (s.withInputs ms).seq.step = s.seq.step := rfl
    simp only [performStep, hs]
    cases hf : steps[s.seq.step]? with
    | none => rfl
    | some f => exact h f (List.mem_of_getElem? hf) ms s

/-- No instruction looks at the moves to come. -/
theorem blind_exec (i : Instr) : Blind (exec i) := by
  cases i <;> intro ms s
  case pcRead =>
    have : (s.withInputs ms).cfg.nPc = s.cfg.nPc := rfl
    have h2 : (s.withInputs ms).pc.cnt = s.pc.cnt := rfl
    simp only [exec, execPcRead, this, h2]
    refine blind_performStep (fun f hf => ?_) ms s
    unfold readSteps at hf
    split at hf <;> simp only [List.mem_cons, List.not_mem_nil, or_false] at hf
    · rcases hf with rfl | rfl
      · exact blind_write fun _ _ => rfl
      · exact blind_respond fun _ _ => rfl
    · rcases hf with rfl | rfl | rfl
      · exact blind_write fun _ _ => rfl
      · exact blind_write fun _ _ => rfl
      · exact blind_respond fun _ _ => rfl
  case wtRead =>
    have : (s.withInputs ms).cfg.nWt = s.cfg.nWt := rfl
    have h2 : (s.withInputs ms).wt.cnt = s.wt.cnt := rfl
    simp only [exec, execWtRead, this, h2]
    refine blind_performStep (fun f hf => ?_) ms s
    unfold readSteps at hf
    split at hf <;> simp only [List.mem_cons, List.not_mem_nil, or_false] at hf
    · rcases hf with rfl | rfl
      · exact blind_write fun _ _ => rfl
      · exact blind_respond fun _ _ => rfl
    · rcases hf with rfl | rfl | rfl
      · exact blind_write fun _ _ => rfl
      · exact blind_write fun _ _ => rfl
      · exact blind_respond fun _ _ => rfl
  all_goals
    refine blind_performStep (fun f hf => ?_) ms s
    simp only [wireFrame, dpWrite, spiFrame_one, spiFrame_two, List.cons_append, List.nil_append,
      List.mem_cons, List.not_mem_nil, or_false] at hf
    rcases hf with hf
    repeat' (rcases hf with rfl | hf)
    all_goals first
      | exact blind_waitTransfer
      | exact blind_write fun _ _ => rfl
      | exact blind_respond fun _ _ => rfl
      | exact blind_illegalIf fun _ _ => rfl
      | exact blind_failIf fun _ _ => rfl
      | exact blind_write blind_storeShadow
      | exact blind_write fun ms s => blind_setEvt _ ms s
      | exact fun _ _ => rfl

theorem fireEvent_withInputs (i : Nat) (ms : List Move) (s : State) :
    (s.withInputs ms).fireEvent i = (s.fireEvent i).withInputs ms := blind_setEvt _ ms s

theorem edgeStep_withInputs (ms : List Move) (s : State) :
    edgeStep (s.withInputs ms) = (edgeStep s).withInputs ms := by
  unfold edgeStep
  change (if (s.pc.run && !s.sync.hold) = true then
    (if (s.pc.cnt + 1) % 2 ^ s.cfg.nPc = s.pc.cmp then _ else _) else _) = _
  by_cases h : (s.pc.run && !s.sync.hold) = true
  · by_cases h2 : (s.pc.cnt + 1) % 2 ^ s.cfg.nPc = s.pc.cmp
    · simp only [if_pos h, if_pos h2]
      exact fireEvent_withInputs pcEvt ms { s with pc.cnt := (s.pc.cnt + 1) % 2 ^ s.cfg.nPc }
    · simp only [if_pos h, if_neg h2]; rfl
  · simp only [if_neg h]

theorem wtTick_withInputs (ms : List Move) (s : State) :
    wtTick (s.withInputs ms) = (wtTick s).withInputs ms := by
  have h1 : tickedCount (s.withInputs ms) = tickedCount s := rfl
  unfold wtTick
  rw [h1]
  change (if tickedCount s = s.wt.cmp then _ else _) = _
  split
  · exact fireEvent_withInputs wtEvt ms { s with wt.cnt := tickedCount s }
  · rfl

theorem clkStep_withInputs (ms : List Move) (s : State) :
    clkStep (s.withInputs ms) = (clkStep s).withInputs ms := by
  unfold clkStep
  change (if s.sync.hold = true then _ else
    if tapTicks s ((s.sync.psc + 1) % 2 ^ s.cfg.pscBits) = true then _ else _) = _
  by_cases hh : s.sync.hold = true
  · simp only [if_pos hh]
  · by_cases ht : tapTicks s ((s.sync.psc + 1) % 2 ^ s.cfg.pscBits) = true
    · simp only [if_neg hh, if_pos ht]
      exact wtTick_withInputs ms { s with sync.psc := (s.sync.psc + 1) % 2 ^ s.cfg.pscBits }
    · simp only [if_neg hh, if_neg ht]; rfl

theorem dtStep_withInputs (ms : List Move) (s : State) :
    dtStep (s.withInputs ms) = (dtStep s).withInputs ms := by
  unfold dtStep
  change (if (s.dt.cnt + 1) % s.cfg.dtPeriod = 0 ∧ s.dt.run = true then _ else _) = _
  simp only
  split
  · exact fireEvent_withInputs dtEvt ms { s with dt.cnt := (s.dt.cnt + 1) % s.cfg.dtPeriod }
  · rfl

theorem engBitStep_withInputs (ms : List Move) (s : State) :
    engBitStep (s.withInputs ms) = (engBitStep s).withInputs ms := by
  have hc : (s.withInputs ms).spi.busy = s.spi.busy := rfl
  have hr : (s.withInputs ms).env.spiReady = s.env.spiReady := rfl
  unfold engBitStep
  rw [hc, hr]
  split
  · simp only [shiftPins_spec]; rfl
  · rfl

/-- No move looks at the moves to come. -/
theorem takeMove_withInputs (m : Move) (ms : List Move) (s : State) :
    takeMove m (s.withInputs ms) = onNext (State.withInputs ms) (takeMove m s) := by
  cases m with
  | seq =>
    have hb : (s.withInputs ms).seq.busy = s.seq.busy := rfl
    have hf : (s.withInputs ms).fetched = s.fetched := rfl
    simp only [takeMove, seqStep, hb, hf]
    cases s.seq.busy
    · rfl
    · cases s.fetched with
      | ok i => exact blind_exec i ms s
      | error e => rfl
  | clk => simp only [takeMove, onNext, clkStep_withInputs]
  | edge => simp only [takeMove, onNext, edgeStep_withInputs]
  | eng => simp only [takeMove, onNext, engBitStep_withInputs]
  | dt => simp only [takeMove, onNext, dtStep_withInputs]
  | command bytes =>
    simp only [takeMove, onNext, State.accept]
    change Host.Outcome.next (if s.seq.busy = true then _ else _) = _
    split <;> rfl
  | spiReady b => rfl
  | readOrder b => rfl
  | reset => rfl

@[simp] theorem withInputs_withInputs (a b : List Move) (s : State) :
    (s.withInputs a).withInputs b = s.withInputs b := rfl

theorem run_withInputs (ms : List Move) (s : State) :
    Host.Core.run Sys2Proof.core ms.length (s.withInputs ms) = runMoves ms s := rfl

/-- A run over a list of moves takes the first and then the others. -/
theorem runMoves_cons (m : Move) (ms : List Move) (s : State) :
    runMoves (m :: ms) s = andThen (takeMove m s) (runMoves ms) := by
  have h : step (s.withInputs (m :: ms)) = onNext (State.withInputs ms) (takeMove m s) :=
    takeMove_withInputs m ms s
  have h' : runMoves (m :: ms) s =
      andThen (step (s.withInputs (m :: ms))) (Host.Core.run Sys2Proof.core ms.length) := by
    simp only [runMoves, List.length_cons, Host.Core.run]
    have hc : ∀ r : Result, Sys2Proof.core.step (s.withInputs (m :: ms)) = r →
        step (s.withInputs (m :: ms)) = r := fun r hr => hr
    cases hs : Sys2Proof.core.step (s.withInputs (m :: ms)) <;> rw [hc _ hs] <;> rfl
  rw [h', h]
  cases takeMove m s <;> rfl

/-- A run over two lists of moves is the run over the first and then the run over the second. -/
theorem runMoves_append (ms ns : List Move) (s : State) :
    runMoves (ms ++ ns) s = andThen (runMoves ms s) (runMoves ns) := by
  induction ms generalizing s with
  | nil =>
    rw [List.nil_append, runMoves_nil]
    rfl
  | cons m ms ih =>
    rw [List.cons_append, runMoves_cons, runMoves_cons]
    cases takeMove m s with
    | next t => exact ih t
    | fault e => rfl
    | refused e => rfl

end Sys2Proof.Machine
end

