-- ==== Sys2Proof/Laws/Steps.lean ====
section
/-! SUPPORT. Every instruction as the list of its primitive steps, so that a proof about all instructions is a proof
about the members of a list. -/

namespace Sys2Proof.Machine

/-- The primitive steps of an instruction, read off its meaning. -/
def primStepsOf (i : Instr) (s : State) : List PrimStep :=
  match i with
  | .pcEnable => [write fun s => { s with pc.cnt := 0, pc.run := true }, respondOk]
  | .pcDisable => [write fun s => { s with pc.run := false }, respondOk]
  | .pcClear => [write fun s => { s with pc.cnt := 0 }, respondOk]
  | .pcRead => readSteps s.cfg.nPc s.pc.cnt
  | .pcSetcmp v =>
    [illegalIf fun s => exceedsWidth s.cfg.nPc v, write fun s => { s with pc.cmp := v.toNat % 2 ^ s.cfg.nPc },
      respondOk]
  | .wtInit => [write fun s => { s with wt.ctc := true, wt.cs := 0 }, respondOk]
  | .wtStart =>
    [write fun s => { s with wt.cnt := 0 }, write fun s => { s with sync.hold := true },
      write fun s => { s with pc.cnt := 0 }, write fun s => { s with wt.cs := s.wt.runcs },
      write fun s => { s with sync.psc := 0 }, write fun s => { s with sync.hold := false }, respondOk]
  | .wtStop => [write fun s => { s with wt.cs := 0 }, respondOk]
  | .wtRead => readSteps s.cfg.nWt s.wt.cnt
  | .wtSetcmp v =>
    [illegalIf fun s => exceedsWidth s.cfg.nWt v, write fun s => { s with wt.cmp := v.toNat % 2 ^ s.cfg.nWt },
      respondOk]
  | .wtSetruncs v =>
    [illegalIf fun s => badRunningSelect s.cfg v, write fun s => { s with wt.runcs := v.extractLsb' 0 3 }, respondOk]
  | .wtClr => [write fun s => { s with wt.cnt := 0 }, respondOk]
  | .syncHold => [write fun s => { s with sync.hold := true }, respondOk]
  | .wtSetcs v =>
    [illegalIf fun s => badClockSelect s.cfg v, write fun s => { s with wt.cs := v.extractLsb' 0 3 }, respondOk]
  | .pscReset => [write fun s => { s with sync.psc := 0 }, respondOk]
  | .syncRelease => [write fun s => { s with sync.hold := false }, respondOk]
  | .spiWrite8 b => [assertCs, loadByte fun _ => b, waitTransfer, releaseCs, respondOk]
  | .spiWrite16 w =>
    [assertCs, loadByte fun _ => hiByte w, waitTransfer, loadByte fun _ => loByte w, waitTransfer, releaseCs,
      respondOk]
  | .dpInc =>
    write id :: (dpWrite (fun s => incremented s.cfg s.dp) ++ [respond fun s => wordValue s.dp])
  | .dpDec => write id :: (dpWrite (fun s => decremented s.dp) ++ [respond fun s => wordValue s.dp])
  | .dpSetText text =>
    failIf (fun _ => badTextLength text) :: failIf (fun _ => badTextDigit text) ::
      failIf (fun s => badTextValue s.cfg text) :: (dpWrite (fun _ => parseDecimal text) ++ [respondOk])
  | .dpSetNum v => dpWrite (fun _ => v.toNat) ++ [respondOk]
  | .dpGet => [respond fun s => wordValue s.dp]
  | .dtStart => [write fun s => { s with dt.run := true }, respondOk]
  | .dtStop => [write fun s => { s with dt.run := false }, respondOk]
  | .evtRead => [respond fun s => [evtByte s.evt]]
  | .evtAck v =>
    [illegalIf fun _ => badEventMask v, write fun s => s.setEvt (ackedFlags s.evt v), respondOk]
  | .wireWrite a d => wireFrame (wireWord a s.cfg.cmdWrite d)
  | .wireIncr a d => wireFrame (wireWord a s.cfg.cmdIncr d)
  | .wireDecr a d => wireFrame (wireWord a s.cfg.cmdDecr d)
  | .wireRead a d => wireFrame (wireWord a s.cfg.cmdRead d)

/-- An instruction performs the step of index `SEQ_STEP` of its list. -/
theorem exec_eq_performStep (i : Instr) (s : State) : exec i s = performStep (primStepsOf i s) s := by
  cases i <;> rfl

/-- The steps of a write to the actuator. -/
theorem dpWrite_steps (v : State → Nat) :
    dpWrite v = [write fun s => s.setTmp (BitVec.ofNat 16 (v s)), assertCs, loadByte fun s => hiByte (tmpWord s),
      waitTransfer, loadByte fun s => loByte (tmpWord s), waitTransfer, releaseCs, write State.storeShadow] := rfl

/-- The steps of a wire word. -/
theorem wireFrame_steps (w : Word) :
    wireFrame w = [assertCs, loadByte fun _ => hiByte w, waitTransfer, loadByte fun _ => loByte w, waitTransfer,
      releaseCs, fun s => .next s.advance.idle] := rfl

/-- What one primitive step of an instruction is, if the instruction goes on. -/
theorem exec_next {i : Instr} {s t : State} (h : exec i s = .next t) :
    ∃ f, (primStepsOf i s)[s.seq.step]? = some f ∧ f s = .next t :=
  performStep_next (exec_eq_performStep i s ▸ h)

end Sys2Proof.Machine
end

