-- ==== Sys2Proof/Tests/Slice0.lean ====
section
/-! SUPPORT. The model's own tests: well-formedness, decoding of words written out from the encoding tables of
30_encoding.md, one primitive step of each operation on a small state, and the witnesses that the hypotheses of the
statements are met. Expected values are those of 95_test_vectors.md or computed by hand from the rule named. -/

namespace Sys2Proof.Tests

open Sys2Proof Sys2Proof.Machine

/-! ### Helpers -/

/-- The reset state with a host command in progress before its step `k`. -/
def opAt (bytes : List Byte) (k : Nat) : State :=
  { State.reset with seq.busy := true, seq.op := bytes, seq.step := k }

/-- The reset state with a wire word in progress before its step `k`. -/
def wireAt (bytes : List Byte) (k : Nat) : State := { opAt bytes k with seq.space := .wire }

/-- The outcome is a next state with the property `f`. -/
def nextHas (f : State → Bool) : Result → Bool
  | .next t => f t
  | .fault _ => false
  | .refused _ => false

/-- The decoder gives `i`. -/
def reads (i : Instr) (r : Except DecodeError Instr) : Bool :=
  match r with
  | .ok j => decide (j = i)
  | .error _ => false

/-- The decoder refuses with `e`. -/
def refuses (e : DecodeError) (r : Except DecodeError Instr) : Bool :=
  match r with
  | .ok _ => false
  | .error e' => decide (e' = e)

/-! ### Well-formedness -/

/-- 30_encoding.md R72: `len` is one byte, so a text of 256 bytes has no encoding. -/
theorem test_wellFormed_refuses_long_text : (Instr.dpSetText (List.replicate 256 0x30)).wellFormed = false := by
  rw [Instr.wellFormed, List.length_replicate]; rfl
theorem test_wellFormed_takes_255 : (Instr.dpSetText (List.replicate 255 0x30)).wellFormed = true := by
  rw [Instr.wellFormed, List.length_replicate]; rfl

/-! ### Decoding: words written out from R74 and R78 -/

theorem test_decode_pulse_counter :
    reads .pcEnable (decodeCommand [0b00000001]) = true ∧ reads .pcDisable (decodeCommand [0b00000010]) = true ∧
    reads .pcClear (decodeCommand [0b00000011]) = true ∧ reads .pcRead (decodeCommand [0b00000100]) = true ∧
    reads (.pcSetcmp 8192) (decodeCommand [0b00000101, 0b00100000, 0b00000000]) = true := by decide

theorem test_decode_window_timer :
    reads .wtInit (decodeCommand [0b00010000]) = true ∧ reads .wtStart (decodeCommand [0b00010001]) = true ∧
    reads .wtStop (decodeCommand [0b00010010]) = true ∧ reads .wtRead (decodeCommand [0b00010011]) = true ∧
    reads (.wtSetcmp 999) (decodeCommand [0b00010100, 0b00000011, 0b11100111]) = true ∧
    reads (.wtSetruncs 2) (decodeCommand [0b00010101, 0b00000010]) = true := by decide

theorem test_decode_sync_start :
    reads .wtClr (decodeCommand [0b00100000]) = true ∧ reads .syncHold (decodeCommand [0b00100001]) = true ∧
    reads (.wtSetcs 2) (decodeCommand [0b00100010, 0b00000010]) = true ∧
    reads .pscReset (decodeCommand [0b00100011]) = true ∧
    reads .syncRelease (decodeCommand [0b00100100]) = true := by decide

theorem test_decode_spi :
    reads (.spiWrite8 0xA5) (decodeCommand [0b00110000, 0b10100101]) = true ∧
    reads (.spiWrite16 0x0064) (decodeCommand [0b00110001, 0b00000000, 0b01100100]) = true := by decide

theorem test_decode_digipot :
    reads .dpInc (decodeCommand [0b01000000]) = true ∧ reads .dpDec (decodeCommand [0b01000001]) = true ∧
    reads (.dpSetText [0x31, 0x30, 0x30]) (decodeCommand [0b01000010, 3, 0x31, 0x30, 0x30]) = true ∧
    reads (.dpSetText []) (decodeCommand [0b01000010, 0]) = true ∧
    reads (.dpSetNum 1025) (decodeCommand [0b01000011, 0b00000100, 0b00000001]) = true ∧
    reads .dpGet (decodeCommand [0b01000100]) = true := by decide

theorem test_decode_tick_and_events :
    reads .dtStart (decodeCommand [0b01010000]) = true ∧ reads .dtStop (decodeCommand [0b01010001]) = true ∧
    reads .evtRead (decodeCommand [0b01100000]) = true ∧
    reads (.evtAck 7) (decodeCommand [0b01100001, 0b00000111]) = true := by decide

/-- 95_test_vectors.md 2.2: 0x5955 has address 5, code 2, payload 0x155. -/
theorem test_decode_wire :
    reads (.wireWrite 1 256) (decodeWire Params.default [0b00010001, 0b00000000]) = true ∧
    reads (.wireIncr 0 256) (decodeWire Params.default [0b00000101, 0b00000000]) = true ∧
    reads (.wireDecr 5 0x155) (decodeWire Params.default [0b01011001, 0b01010101]) = true ∧
    reads (.wireRead 15 1023) (decodeWire Params.default [0b11111111, 0b11111111]) = true := by decide

/-- 95_test_vectors.md 2.1. -/
theorem test_decode_refuses :
    refuses (.reservedOpcode 0x00) (decodeCommand [0x00]) = true ∧
    refuses (.reservedOpcode 0xFF) (decodeCommand [0xFF]) = true ∧
    refuses (.reservedOpcode 0x06) (decodeCommand [0x06]) = true ∧
    refuses .wrongLength (decodeCommand [0x01, 0x00]) = true ∧
    refuses .wrongLength (decodeCommand [0x05, 0x00]) = true ∧
    refuses .wrongLength (decodeCommand [0x42, 0x03, 0x31, 0x30]) = true ∧
    refuses .emptyCommand (decodeCommand []) = true := by decide

/-- opcode_table.json numbers bit 0 as the least significant bit of the first byte of a command. -/
theorem test_table_word :
    decodeTableWord 8 0x01 = some .pcEnable ∧ decodeTableWord 24 0x200005 = some (.pcSetcmp 32) ∧
    decodeTableWord 16 0xA530 = some (.spiWrite8 0xA5) ∧ decodeTableWord 16 0x0C00 = some (.wireRead 0 0) := by decide

/-! ### One primitive step of each operation -/

/-- R102: `PC_CNT` = 37, stopped. -/
theorem test_pcEnable : nextHas (fun t => t.pc.cnt == 0 && t.pc.run)
    (exec .pcEnable { opAt [0x01] 0 with pc.cnt := 37 }) = true := by decide
theorem test_pcDisable : nextHas (fun t => t.pc.cnt == 123 && !t.pc.run)
    (exec .pcDisable { opAt [0x02] 0 with pc.cnt := 123, pc.run := true }) = true := by decide
theorem test_pcClear : nextHas (fun t => t.pc.cnt == 0 && t.pc.run)
    (exec .pcClear { opAt [0x03] 0 with pc.cnt := 9, pc.run := true }) = true := by decide
/-- R56: the first sample of 0x01FF, low byte first, takes 0xFF. -/
theorem test_pcRead_low_first : nextHas (fun t => t.seq.tmp == 0xAAFF && t.seq.loFirst)
    (exec .pcRead { opAt [0x04] 0 with pc.cnt := 0x01FF, seq.tmp := 0xAAAA }) = true := by decide
/-- The torn read of 95_test_vectors.md 2.3, high byte first: high 0x00 from 0x00FF, low 0x00 from 0x0100. -/
theorem test_pcRead_torn : nextHas (fun t => decide (t.out.responses = [[0x00, 0x00, 0x00]]))
    (runMoves [.readOrder false, .seq, .edge, .seq, .seq] { opAt [0x04] 0 with pc.cnt := 0x00FF, pc.run := true }) =
      true := by decide
theorem test_pcSetcmp_narrow : nextHas (fun t => decide (t.out.responses = [[0x02]]) && t.pc.cmp == 16)
    (exec (.pcSetcmp 256) { opAt [0x05, 1, 0] 0 with cfg.nPc := 8 }) = true := by decide
theorem test_pcSetcmp : nextHas (fun t => t.pc.cmp == 32 && t.evt == 0) (exec (.pcSetcmp 32) (opAt [0x05, 0, 32] 1)) =
    true := by decide
theorem test_wtInit : nextHas (fun t => t.wt.ctc && t.wt.cs == 0)
    (exec .wtInit { opAt [0x10] 0 with wt.cs := 3 }) = true := by decide
/-- R146 case (b), 95_test_vectors.md 2.5: one clock between step 1 and step 2 of a second window. -/
theorem test_wtStart_skew : nextHas (fun t => t.wt.cnt == 1 && !t.sync.hold && t.sync.psc == 0)
    (runMoves [.seq, .clk, .seq, .seq, .seq, .seq, .seq] { opAt [0x11] 0 with wt.cs := 1, wt.cnt := 9 }) = true := by
  decide
theorem test_wtStart_holds : nextHas (fun t => t.sync.hold && t.pc.cnt == 2) (exec .wtStart { opAt [0x11] 1 with pc.cnt := 2 }) =
    true := by decide
theorem test_wtStop : nextHas (fun t => t.wt.cs == 0 && t.wt.cnt == 500)
    (exec .wtStop { opAt [0x12] 0 with wt.cs := 3, wt.cnt := 500 }) = true := by decide
theorem test_wtRead : nextHas (fun t => decide (t.out.responses = [[0x00, 0x01, 0x02]]))
    (exec .wtRead { opAt [0x13] 2 with seq.tmp := 0x0102 }) = true := by decide
theorem test_wtSetcmp : nextHas (fun t => t.wt.cmp == 999) (exec (.wtSetcmp 999) (opAt [0x14, 3, 0xE7] 1)) = true := by
  decide
theorem test_wtSetruncs : nextHas (fun t => t.wt.runcs == 2 && t.wt.cs == 4)
    (exec (.wtSetruncs 2) { opAt [0x15, 2] 1 with wt.cs := 4 }) = true := by decide
/-- 0 is no key of `DIV`. -/
theorem test_wtSetruncs_zero : nextHas (fun t => decide (t.out.responses = [[0x02]]) && t.wt.runcs == 3)
    (exec (.wtSetruncs 0) (opAt [0x15, 0] 0)) = true := by decide
theorem test_wtClr : nextHas (fun t => t.wt.cnt == 0) (exec .wtClr { opAt [0x20] 0 with wt.cnt := 5 }) = true := by decide
theorem test_syncHold : nextHas (fun t => t.sync.hold && t.sync.psc == 5)
    (exec .syncHold { opAt [0x21] 0 with sync.psc := 5 }) = true := by decide
theorem test_wtSetcs_zero : nextHas (fun t => t.seq.busy && t.seq.step == 1) (exec (.wtSetcs 0) (opAt [0x22, 0] 0)) =
    true := by decide
theorem test_wtSetcs_reserved : nextHas (fun t => decide (t.out.responses = [[0x02]]))
    (exec (.wtSetcs 7) (opAt [0x22, 7] 0)) = true := by decide
theorem test_pscReset : nextHas (fun t => t.sync.psc == 0) (exec .pscReset { opAt [0x23] 0 with sync.psc := 700 }) =
    true := by decide
theorem test_syncRelease : nextHas (fun t => !t.sync.hold) (exec .syncRelease { opAt [0x24] 0 with sync.hold := true }) =
    true := by decide
theorem test_spiWrite8_cs : nextHas (fun t => !t.spi.cs && decide (t.out.pinTrace = [.cs false]))
    (exec (.spiWrite8 0xA5) (opAt [0x30, 0xA5] 0)) = true := by decide
/-- The low byte is the second byte of the frame. -/
theorem test_spiWrite16_low : nextHas (fun t => t.spi.sr == 0x64 && t.spi.busy && t.spi.bitcnt == 0)
    (exec (.spiWrite16 0x0164) (opAt [0x31, 1, 0x64] 3)) = true := by decide
/-- 95_test_vectors.md 2.6, mode 3, the bit 1 of 0xA5: `SCK`←0, `MOSI`←1, `SCK`←1. -/
theorem test_eng_mode3 : (engBitStep { State.reset with
      cfg.cpol := true, cfg.cpha := true, spi.sck := true, spi.sr := 0xA5, spi.busy := true }).out.pinTrace =
    [.sck true, .mosi true, .sck false] := by decide
/-- 20_memory.md R54: least-significant bit first, 0x64 begins 0, 0, 1. -/
theorem test_eng_lsb : (engBitStep { State.reset with
      cfg.lsbFirst := true, spi.sr := 0x64, spi.bitcnt := 2, spi.busy := true }).spi.mosi = true := by decide
/-- 95_test_vectors.md 2.7: 65535 is incremented without wrap-around and clamped to 256. -/
theorem test_dpInc_clamp : nextHas (fun t => t.seq.tmp == 256) (exec .dpInc { opAt [0x40] 1 with dp := 65535 }) = true := by
  decide
theorem test_dpInc_answer : nextHas (fun t => decide (t.out.responses = [[0x00, 0x01, 0x00]]))
    (exec .dpInc { opAt [0x40] 9 with dp := 256 }) = true := by decide
/-- Only a lower clamp: 300 goes to 299. -/
theorem test_dpDec : nextHas (fun t => t.seq.tmp == 299) (exec .dpDec { opAt [0x41] 1 with dp := 300 }) = true := by decide
theorem test_dpDec_zero : nextHas (fun t => t.seq.tmp == 0) (exec .dpDec { opAt [0x41] 1 with dp := 0 }) = true := by decide
/-- "257" fails the third check, and nothing else changes. -/
theorem test_dpSetText_range : nextHas (fun t => decide (t.out.responses = [[0x01]]) && t.dp == 128)
    (exec (.dpSetText [0x32, 0x35, 0x37]) (opAt [0x42, 3, 0x32, 0x35, 0x37] 2)) = true := by decide
/-- "+5" fails the second check. -/
theorem test_dpSetText_digit : nextHas (fun t => decide (t.out.responses = [[0x01]]))
    (exec (.dpSetText [0x2B, 0x35]) (opAt [0x42, 2, 0x2B, 0x35] 1)) = true := by decide
/-- 1025 goes out as 0x0001: the low byte of the frame is 0x01, and the shadow keeps 1025. -/
theorem test_dpSetNum_wire : nextHas (fun t => t.spi.sr == 0x01)
    (exec (.dpSetNum 1025) { opAt [0x43, 4, 1] 4 with seq.tmp := 1025 }) = true := by decide
theorem test_dpSetNum_shadow : nextHas (fun t => t.dp == 1025)
    (exec (.dpSetNum 1025) { opAt [0x43, 4, 1] 7 with seq.tmp := 1025 }) = true := by decide
theorem test_dpGet : nextHas (fun t => decide (t.out.responses = [[0x00, 0x04, 0x01]]))
    (exec .dpGet { opAt [0x44] 0 with dp := 1025 }) = true := by decide
theorem test_dtStart : nextHas (fun t => t.dt.run && t.dt.cnt == 998)
    (exec .dtStart { opAt [0x50] 0 with dt.cnt := 998 }) = true := by decide
theorem test_dtStop : nextHas (fun t => !t.dt.run && t.evt == 4)
    (exec .dtStop { opAt [0x51] 0 with dt.run := true, evt := 4 }) = true := by decide
theorem test_evtRead : nextHas (fun t => decide (t.out.responses = [[0x00, 0x03]]) && t.evt == 3)
    (exec .evtRead { opAt [0x60] 0 with evt := 3 }) = true := by decide
theorem test_evtAck : nextHas (fun t => t.evt == 2 && decide (t.out.pinTrace = [.evt 2]))
    (exec (.evtAck 1) { opAt [0x61, 1] 1 with evt := 3 }) = true := by decide
theorem test_evtAck_reserved : nextHas (fun t => decide (t.out.responses = [[0x02]]) && t.evt == 1)
    (exec (.evtAck 0x10) { opAt [0x61, 0x10] 0 with evt := 1 }) = true := by decide
/-- 0x5955: the high byte of the frame is 0x59. -/
theorem test_wireDecr : nextHas (fun t => t.spi.sr == 0x59) (exec (.wireDecr 5 0x155) (wireAt [0x59, 0x55] 1)) = true := by
  decide
theorem test_wireWrite : nextHas (fun t => t.spi.sr == 0x11) (exec (.wireWrite 1 256) (wireAt [0x11, 0x00] 1)) = true := by
  decide
theorem test_wireIncr : nextHas (fun t => t.spi.sr == 0x05) (exec (.wireIncr 0 256) (wireAt [0x05, 0x00] 1)) = true := by
  decide
theorem test_wireRead : nextHas (fun t => t.spi.sr == 0xFF) (exec (.wireRead 15 1023) (wireAt [0xFF, 0xFF] 3)) = true := by
  decide

/-! ### The agents -/

/-- R107: the sixteenth edge fires. -/
theorem test_edge_threshold : (edgeStep { State.reset with pc.run := true, pc.cnt := 15 }).evt = 1 := by decide
/-- R108: a silent wrap. -/
theorem test_edge_wrap :
    (edgeStep { State.reset with pc.run := true, pc.cnt := 0xFFFF }).pc.cnt = 0 ∧
    (edgeStep { State.reset with pc.run := true, pc.cnt := 0xFFFF }).evt = 0 := by decide
/-- R120: divisor 1024 ticks at the wrap of the prescaler. -/
theorem test_clk_wrap_ticks :
    (clkStep { State.reset with sync.psc := 1023, wt.cs := 5 }).sync.psc = 0 ∧
    (clkStep { State.reset with sync.psc := 1023, wt.cs := 5 }).wt.cnt = 1 := by decide
/-- R121: the clearing tick comes after the match. -/
theorem test_tick_clears :
    (wtTick { State.reset with wt.ctc := true, wt.cmp := 3, wt.cnt := 3 }).wt.cnt = 0 ∧
    (wtTick { State.reset with wt.ctc := true, wt.cmp := 3, wt.cnt := 2 }).evt = 2 := by decide
/-- R216: the phase runs while the timer is off, without an event. -/
theorem test_dt_phase :
    (dtStep { State.reset with dt.cnt := 999 }).dt.cnt = 0 ∧ (dtStep { State.reset with dt.cnt := 999 }).evt = 0 ∧
    (dtStep { State.reset with dt.cnt := 999, dt.run := true }).evt = 4 := by decide
/-- 95_test_vectors.md 2.10: reset of a hung frame. -/
theorem test_reset : nextHas
    (fun t => !t.spi.busy && t.spi.cs && t.evt == 0 && t.dp == 128 && !t.sync.hold && decide (t.out.responses = []))
    (takeMove .reset { opAt [0x40] 5 with spi.busy := true, spi.cs := false, evt := 7, dp := 300, sync.hold := true }) =
      true := by decide

/-! ### Witnesses: the hypotheses of each statement are met -/

theorem witness_DecodeEncodeRoundTrip :
    Params.default.codesDistinct = true ∧ (Instr.dpSetText (List.replicate 255 0x30)).wellFormed = true ∧
    (Instr.wireRead 15 1023).wellFormed = true :=
  ⟨by decide, test_wellFormed_takes_255, rfl⟩

theorem witness_EncodeInvertsDecode :
    decode Params.default .host [0x05, 0x00, 0x20] = .ok (.pcSetcmp 0x0020) ∧
    decode Params.default .wire [0x59, 0x55] = .ok (.wireDecr 5 0x155) := ⟨rfl, by rfl⟩

theorem witness_ReservedOpcodeAnswersIllegal :
    (0x06 : Byte) ∉ hostOpcodes.map (·.1) ∧ (opAt [0x06] 0).seq.busy = true ∧ (opAt [0x06] 0).seq.space = .host ∧
    (opAt [0x06] 0).seq.op = 0x06 :: [] := by decide

/-- One byte too many for `OP0`, one too few for `OPT`, and a right length of each. -/
theorem witness_WrongLengthAnswersIllegal :
    ((0x01 : Byte), Format.op0) ∈ hostOpcodes ∧ ((0x42 : Byte), Format.opt) ∈ hostOpcodes ∧
    ([0x01, 0x00] : List Byte).length ≠ requiredLength .op0 [0x00] ∧
    ([0x42, 0x01] : List Byte).length ≠ requiredLength .opt [0x01] ∧
    ([0x42] : List Byte).length ≠ requiredLength .opt [] ∧
    ([0x01] : List Byte).length = requiredLength .op0 [] ∧
    ([0x42, 0x01, 0x30] : List Byte).length = requiredLength .opt [0x01, 0x30] ∧
    (opAt [0x01, 0x00] 0).seq.busy = true ∧ (opAt [0x01, 0x00] 0).seq.space = .host ∧
    (opAt [0x01, 0x00] 0).seq.op = 0x01 :: [0x00] := by decide

/-- The largest text of three digits. -/
theorem witness_ParseDecimalIsDecimalValue :
    ([0x39, 0x39, 0x39] : List Byte).length ≤ 3 ∧
    (∀ b ∈ ([0x39, 0x39, 0x39] : List Byte), 0x30 ≤ b.toNat ∧ b.toNat ≤ 0x39) ∧
    parseDecimal [0x39, 0x39, 0x39] = 999 := by decide

/-- A state in which SEQ moves next. -/
def seqNext : State := { opAt [0x01] 0 with env.inputs := [.seq] }

theorem witness_StepRunsDecodedOperation :
    seqNext.env.inputs = .seq :: [] ∧ seqNext.seq.busy = true ∧
    decode seqNext.cfg seqNext.seq.space seqNext.seq.op = .ok .pcEnable := ⟨rfl, rfl, rfl⟩

theorem witness_PlacedInstructionRunsNext :
    decode State.reset.cfg (tableLayout 24 0x200005).1 (tableLayout 24 0x200005).2 = .ok (.pcSetcmp 0x0020) ∧
    decode State.reset.cfg (tableLayout 16 0x0C00).1 (tableLayout 16 0x0C00).2 = .ok (.wireRead 0 0) :=
  ⟨by rfl, by rfl⟩

theorem witness_CommandAcceptedOnlyWhenIdle :
    (State.reset.withInputs [.command [0x44]]).env.inputs = .command [0x44] :: [] ∧
    (State.reset.withInputs [.command [0x44]]).seq.busy = false ∧
    ((opAt [0x01] 0).withInputs [.command [0x44]]).env.inputs = .command [0x44] :: [] ∧
    ((opAt [0x01] 0).withInputs [.command [0x44]]).seq.busy = true := by decide

/-- The last step of the longest operation, and the index after it; a counter of 8 bits and one of 9. -/
theorem witness_EveryInstructionAnswers :
    (opAt [] 11).seq.step < stepCount (opAt [] 11).cfg (.dpSetText []) ∧
    stepCount (opAt [] 12).cfg (.dpSetText []) ≤ (opAt [] 12).seq.step ∧
    stepCount { Params.default with nPc := 8 } .pcRead = 2 ∧
    stepCount { Params.default with nPc := 9 } .pcRead = 3 := by decide

/-- A step that is no wait, a wait whose byte is in flight, and one whose byte is complete. -/
theorem witness_PrimitiveStepAdvances :
    (∃ t, exec .pcEnable (opAt [0x01] 0) = .next t) ∧ isWait .pcEnable 0 = false ∧
    (∃ t, exec (.spiWrite8 0xA5) { opAt [0x30, 0xA5] 2 with spi.busy := true } = .next t) ∧
    isWait (.spiWrite8 0xA5) 2 = true ∧ (∃ t, exec (.spiWrite8 0xA5) (opAt [0x30, 0xA5] 2) = .next t) ∧
    (opAt [0x30, 0xA5] 2).spi.busy = false := ⟨⟨_, rfl⟩, rfl, ⟨_, rfl⟩, rfl, ⟨_, rfl⟩, rfl⟩

/-- The end of a command, a step in its middle, an idle block, and RESET. -/
theorem witness_OneResponsePerCommand :
    (∃ t, takeMove .seq (opAt [0x44] 0) = .next t ∧ t.seq.busy = false) ∧ (opAt [0x44] 0).seq.space = .host ∧
    (∃ t, takeMove .seq (opAt [0x01] 0) = .next t ∧ t.seq.busy = true) ∧
    (∃ t, takeMove .clk State.reset = .next t) ∧ State.reset.seq.busy = false ∧
    (∃ t, takeMove .reset (opAt [0x44] 0) = .next t) :=
  ⟨⟨_, rfl, rfl⟩, rfl, ⟨_, rfl, rfl⟩, ⟨_, rfl⟩, rfl, ⟨_, rfl⟩⟩

theorem witness_PulseCounterControls : (opAt [0x01] 0).seq.step = 0 ∧ (opAt [0x01] 1).seq.step = 1 := by decide
theorem witness_WindowTimerControls : (opAt [0x10] 0).seq.step = 0 ∧ (opAt [0x10] 1).seq.step = 1 := by decide
theorem witness_SynchronizationControls : (opAt [0x20] 0).seq.step = 0 ∧ (opAt [0x20] 1).seq.step = 1 := by decide
theorem witness_DisplayTickControls : (opAt [0x50] 0).seq.step = 0 ∧ (opAt [0x50] 1).seq.step = 1 := by decide
theorem witness_QueriesChangeNothing : (opAt [0x44] 0).seq.step = 0 := by decide
theorem witness_SynchronizedStartSteps :
    ∀ k < 7, (opAt [0x11] k).seq.step = k := by decide

/-- A counter of 8 bits, one of 9 and one of 16, at each step, in both byte orders. -/
theorem witness_PulseCounterRead :
    ({ opAt [0x04] 0 with cfg.nPc := 8 } : State).cfg.nPc ≤ 8 ∧ ({ opAt [0x04] 1 with cfg.nPc := 8 } : State).seq.step = 1 ∧
    8 < ({ opAt [0x04] 0 with cfg.nPc := 9 } : State).cfg.nPc ∧ 8 < (opAt [0x04] 0).cfg.nPc ∧
    (opAt [0x04] 0).seq.step = 0 ∧ (opAt [0x04] 1).seq.step = 1 ∧ (opAt [0x04] 2).seq.step = 2 ∧
    (opAt [0x04] 0).env.loFirst = true ∧ ({ opAt [0x04] 0 with env.loFirst := false } : State).env.loFirst = false ∧
    (opAt [0x04] 1).seq.loFirst = false ∧ ({ opAt [0x04] 1 with seq.loFirst := true } : State).seq.loFirst = true := by
  decide

theorem witness_WindowTimerRead :
    ({ opAt [0x13] 0 with cfg.nWt := 8 } : State).cfg.nWt ≤ 8 ∧ ({ opAt [0x13] 1 with cfg.nWt := 8 } : State).seq.step = 1 ∧
    8 < ({ opAt [0x13] 0 with cfg.nWt := 9 } : State).cfg.nWt ∧ 8 < (opAt [0x13] 0).cfg.nWt ∧
    (opAt [0x13] 0).seq.step = 0 ∧ (opAt [0x13] 1).seq.step = 1 ∧ (opAt [0x13] 2).seq.step = 2 ∧
    (opAt [0x13] 0).env.loFirst = true ∧ ({ opAt [0x13] 0 with env.loFirst := false } : State).env.loFirst = false := by
  decide

/-- The largest value that 8 bits hold, the smallest that they do not, and the largest operand at 16 bits. -/
theorem witness_CompareRegisterWrites :
    2 ^ ({ opAt [0x05, 1, 0] 0 with cfg.nPc := 8 } : State).cfg.nPc ≤ (256 : Word).toNat ∧
    (255 : Word).toNat < 2 ^ ({ opAt [0x05, 0, 0xFF] 0 with cfg.nPc := 8 } : State).cfg.nPc ∧
    2 ^ ({ opAt [0x14, 1, 0] 0 with cfg.nWt := 8 } : State).cfg.nWt ≤ (256 : Word).toNat ∧
    (65535 : Word).toNat < 2 ^ (opAt [0x14, 0xFF, 0xFF] 0).cfg.nWt ∧
    (opAt [0x05, 0, 0xFF] 0).seq.step = 0 ∧ (opAt [0x05, 0, 0xFF] 1).seq.step = 1 ∧
    (opAt [0x05, 0, 0xFF] 2).seq.step = 2 := by decide

/-- Stopped, held, counting below the threshold, at the threshold with the flag clear and with the flag set. -/
theorem witness_EdgeStepCounts :
    State.reset.pc.run = false ∧ ({ State.reset with sync.hold := true } : State).sync.hold = true ∧
    ({ State.reset with pc.run := true } : State).pc.run = true ∧ State.reset.sync.hold = false ∧
    (State.reset.pc.cnt + 1) % 2 ^ State.reset.cfg.nPc ≠ State.reset.pc.cmp ∧
    (({ State.reset with pc.cnt := 15 } : State).pc.cnt + 1) % 2 ^ State.reset.cfg.nPc = State.reset.pc.cmp ∧
    State.reset.evt.getLsbD 0 = false ∧ ({ State.reset with evt := 1 } : State).evt.getLsbD 0 = true := by decide

theorem witness_PulseCountIsEdgeCount :
    ({ State.reset with pc.run := true } : State).pc.run = true ∧
    ({ State.reset with pc.run := true } : State).sync.hold = false := by decide

/-- The value 0, the largest key and the value after it. -/
theorem witness_ClockSelectWrites :
    (∀ d, ((6 : Byte).toNat, d) ∉ (opAt [0x15, 6] 0).cfg.div) ∧ (∀ d, ((0 : Byte).toNat, d) ∉ (opAt [0x15, 0] 0).cfg.div) ∧
    (∃ d, ((5 : Byte).toNat, d) ∈ (opAt [0x15, 5] 0).cfg.div) ∧ (6 : Byte) ≠ 0 ∧ (opAt [0x15, 6] 0).seq.step = 0 ∧
    (opAt [0x15, 5] 1).seq.step = 1 ∧ (opAt [0x15, 5] 2).seq.step = 2 :=
  ⟨by simp [opAt, State.reset, State.resetWith, Params.default],
   by simp [opAt, State.reset, State.resetWith, Params.default], ⟨1024, by decide⟩, by decide, rfl, rfl, rfl⟩

/-- Held; no tap; divisor 8 at the prescaler values 7 and 8. -/
theorem witness_ClkStepDividesBaseClock :
    ({ State.reset with sync.hold := true } : State).sync.hold = true ∧ State.reset.sync.hold = false ∧
    State.reset.wt.cs = 0 ∧ ({ State.reset with wt.cs := 2 } : State).wt.cs ≠ 0 ∧
    State.reset.cfg.div.lookup ({ State.reset with wt.cs := 2 } : State).wt.cs.toNat = some 8 ∧
    ((({ State.reset with sync.psc := 6 } : State).sync.psc + 1) % 2 ^ State.reset.cfg.pscBits) % 8 ≠ 0 ∧
    ((({ State.reset with sync.psc := 7 } : State).sync.psc + 1) % 2 ^ State.reset.cfg.pscBits) % 8 = 0 := by decide

/-- Clear-on-match with the reset compare value, divisor 8. -/
def windowStart : State := { State.reset with wt.cs := 2, wt.ctc := true }

theorem witness_WindowCountAfterClocks :
    windowStart.cfg.legal = true ∧ windowStart.sync.hold = false ∧ windowStart.sync.psc = 0 ∧ windowStart.wt.cnt = 0 ∧
    windowStart.wt.cs ≠ 0 ∧ windowStart.cfg.div.lookup windowStart.wt.cs.toNat = some 8 ∧
    windowStart.wt.cmp < 2 ^ windowStart.cfg.nWt := by decide

/-- 95_test_vectors.md 2.5, first vector, with edges and clocks between the steps. -/
def startState : State :=
  { opAt [0x11] 0 with pc.run := true, pc.cnt := 2, wt.cnt := 500, wt.runcs := 2, sync.psc := 123 }

theorem witness_SynchronizedStartEpoch :
    startState.seq.busy = true ∧ startState.fetched = .ok .wtStart ∧ startState.seq.step = 0 ∧ startState.wt.cs = 0 ∧
    .reset ∉ ([.clk, .seq, .edge, .seq, .clk, .seq, .seq, .clk, .seq, .edge] : List Move) ∧
    ([.clk, .seq, .edge, .seq, .clk, .seq, .seq, .clk, .seq, .edge] : List Move).count .seq = 5 :=
  ⟨rfl, rfl, rfl, rfl, by decide, by decide⟩

theorem witness_StartByPartsLeavesPulseCount :
    State.reset.seq.busy = false ∧ ∃ d, ((2 : Byte).toNat, d) ∈ State.reset.cfg.div := ⟨rfl, 8, by decide⟩

/-- 95_test_vectors.md 2.5, the second window; clear-on-match off and on. -/
theorem witness_SecondWindowSkewedByTick :
    (opAt [0x11] 0).fetched = .ok .wtStart ∧ (opAt [0x11] 0).sync.hold = false ∧
    tapTicks { opAt [0x11] 0 with wt.cs := 1, wt.cnt := 9 } ((State.reset.sync.psc + 1) % 2 ^ State.reset.cfg.pscBits) =
      true ∧
    1 ≤ State.reset.cfg.nWt ∧ ({ opAt [0x11] 0 with wt.ctc := true } : State).wt.ctc = true ∧ State.reset.wt.cmp ≠ 0 :=
  ⟨rfl, rfl, by decide, by decide, rfl, by decide⟩

/-- The window closed exactly, with moves of the other agents between the samples; a counter of 8 bits too. -/
theorem witness_StoppedCounterReadsExactly :
    ({ opAt [0x04] 0 with pc.cnt := 0x0140 } : State).fetched = .ok .pcRead ∧ State.reset.cfg.nPc ≤ 16 ∧
    0x0140 < 2 ^ State.reset.cfg.nPc ∧ State.reset.pc.run = false ∧
    ([.seq, .edge, .clk, .seq] : List Move).count .seq + 1 = (if State.reset.cfg.nPc ≤ 8 then 2 else 3) ∧
    ([.edge, .seq] : List Move).count .seq + 1 = (if 8 ≤ 8 then 2 else 3) ∧
    .reset ∉ ([.seq, .edge, .clk, .seq] : List Move) ∧
    ({ opAt [0x13] 0 with sync.hold := true, wt.cs := 2 } : State).fetched = .ok .wtRead ∧
    ({ opAt [0x13] 0 with sync.hold := true, wt.cs := 2 } : State).sync.hold = true ∧ State.reset.wt.cs = 0 ∧
    State.reset.wt.cnt < 2 ^ State.reset.cfg.nWt :=
  ⟨rfl, by decide, by decide, rfl, by decide, by decide, by decide, rfl, rfl, rfl, by decide⟩

/-- 95_test_vectors.md 2.3, the torn read of 0x00FF. -/
def tornState : State := { opAt [0x04] 0 with pc.cnt := 0x00FF, pc.run := true }

theorem witness_TornPulseCounterRead :
    tornState.seq.busy = true ∧ tornState.fetched = .ok .pcRead ∧ tornState.seq.step = 0 ∧ 8 < tornState.cfg.nPc ∧
    tornState.cfg.nPc ≤ 16 ∧ tornState.pc.cnt < 2 ^ tornState.cfg.nPc ∧ tornState.pc.run = true ∧
    tornState.sync.hold = false ∧ 0x0100 = (tornState.pc.cnt + 1) % 2 ^ tornState.cfg.nPc ∧
    tornState.env.loFirst = true ∧ ({ tornState with env.loFirst := false } : State).env.loFirst = false :=
  ⟨rfl, rfl, rfl, by decide, by decide, by decide, rfl, rfl, by decide, rfl, rfl⟩

theorem witness_SpiWriteSteps : (∀ k < 5, (opAt [0x30, 0xA5] k).seq.step = k) ∧ (opAt [0x31, 0, 0x64] 5).seq.step < 6 ∧
    (opAt [0x31, 0, 0x64] 6).seq.step = 6 := by decide

/-- Each of the four words, at the last step of its frame and at its end. -/
theorem witness_WireWordSteps :
    (Instr.wireWrite 5 0x155 = .wireWrite 5 0x155 ∧ (0 : BitVec 2) = State.reset.cfg.cmdWrite) ∧
    (Instr.wireIncr 5 0x155 = .wireIncr 5 0x155 ∧ (1 : BitVec 2) = State.reset.cfg.cmdIncr) ∧
    (Instr.wireDecr 5 0x155 = .wireDecr 5 0x155 ∧ (2 : BitVec 2) = State.reset.cfg.cmdDecr) ∧
    (Instr.wireRead 5 0x155 = .wireRead 5 0x155 ∧ (3 : BitVec 2) = State.reset.cfg.cmdRead) ∧
    (wireAt [0x59, 0x55] 5).seq.step < 6 ∧ (wireAt [0x59, 0x55] 6).seq.step = 6 := by decide

/-- No byte in flight; a byte in flight with `spi_ready` false; one with `spi_ready`, in either bit order. -/
theorem witness_EngineBitStep :
    State.reset.spi.busy = false ∧ ({ State.reset with env.spiReady := false } : State).env.spiReady = false ∧
    ({ State.reset with spi.busy := true, spi.sr := 0x80 } : State).spi.busy = true ∧ State.reset.env.spiReady = true ∧
    true = (0x80 : Byte).getLsbD (if State.reset.cfg.lsbFirst = true then State.reset.spi.bitcnt
      else 7 - State.reset.spi.bitcnt) ∧
    false = (0x80 : Byte).getLsbD (if ({ State.reset with cfg.lsbFirst := true } : State).cfg.lsbFirst = true
      then State.reset.spi.bitcnt else 7 - State.reset.spi.bitcnt) := by decide

theorem reset_inv : State.reset.Inv := ⟨by decide, by decide, by decide, by decide⟩

/-- The moves of a whole `SPI_WRITE8`, with a base clock and an edge among them. -/
def writeMoves : List Move :=
  [.seq, .seq, .clk] ++ List.replicate 8 .eng ++ [.edge, .seq, .seq, .seq]

theorem witness_ReceiverSeesOneFrame :
    State.reset.Inv ∧ State.reset.receiverAgrees = true ∧ State.reset.seq.busy = false ∧ .reset ∉ writeMoves ∧
    (∀ m ∈ writeMoves, ∀ c, m ≠ .command c) ∧ nextHas (fun t => !t.seq.busy)
      (runMoves (.command [0x30, 0xA5] :: writeMoves) State.reset) = true :=
  ⟨reset_inv, by decide, rfl, by decide, by simp [writeMoves], by decide⟩

/-- 95_test_vectors.md 2.6: a hang in the first byte, after two bits. -/
def hungState : State :=
  { opAt [0x30, 0xA5] 2 with spi.cs := false, spi.busy := true, spi.bitcnt := 2, spi.sr := 0xA5, env.spiReady := false }

theorem witness_HangNeverEnds :
    hungState.Inv ∧ hungState.spi.busy = true ∧ hungState.env.spiReady = false ∧
    .reset ∉ ([.seq, .eng, .clk, .command [0x44]] : List Move) ∧
    .spiReady true ∉ ([.seq, .eng, .clk, .command [0x44]] : List Move) :=
  ⟨⟨by decide, by decide, by decide, by decide⟩, rfl, rfl, by decide, by decide⟩

/-- Both ends of the range, each step, and the first and last step of the frame. -/
theorem witness_DriverIncrementDecrement :
    256 = min (({ opAt [0x40] 1 with dp := 256 } : State).dp.toNat + 1) (State.reset.cfg.steps - 1) ∧
    ((0 : Nat) : Int) = max (((({ opAt [0x41] 1 with dp := 0 } : State).dp.toNat : Int)) - 1) 0 ∧
    (opAt [0x40] 0).seq.step = 0 ∧ (opAt [0x40] 1).seq.step = 1 ∧ 2 ≤ (opAt [0x40] 2).seq.step ∧
    (opAt [0x40] 7).seq.step < 8 ∧ (opAt [0x40] 8).seq.step = 8 ∧
    ({ opAt [0x40] 8 with seq.tmp := 256 } : State).seq.tmp.toNat < 2 ^ State.reset.cfg.shadowBits ∧
    (opAt [0x40] 9).seq.step = 9 := by decide

/-- "", "1000", "256", "257", "+5", each at the check that it reaches. -/
theorem witness_DriverSetText :
    ([] : List Byte).length = 0 ∧ 3 < ([0x31, 0x30, 0x30, 0x30] : List Byte).length ∧
    1 ≤ ([0x32, 0x35, 0x36] : List Byte).length ∧ ([0x32, 0x35, 0x36] : List Byte).length ≤ 3 ∧
    (∃ b ∈ ([0x2B, 0x35] : List Byte), b.toNat < 0x30 ∨ 0x39 < b.toNat) ∧
    (∀ b ∈ ([0x32, 0x35, 0x36] : List Byte), 0x30 ≤ b.toNat ∧ b.toNat ≤ 0x39) ∧
    State.reset.cfg.steps - 1 < parseDecimal [0x32, 0x35, 0x37] ∧
    parseDecimal [0x32, 0x35, 0x36] ≤ State.reset.cfg.steps - 1 ∧ (opAt [] 0).seq.step = 0 ∧ (opAt [] 1).seq.step = 1 ∧
    (opAt [] 2).seq.step = 2 ∧ (opAt [] 3).seq.step = 3 ∧ 4 ≤ (opAt [] 4).seq.step ∧ (opAt [] 9).seq.step < 10 ∧
    (opAt [] 10).seq.step = 10 ∧ (opAt [] 10).seq.tmp.toNat < 2 ^ State.reset.cfg.shadowBits ∧
    (opAt [] 11).seq.step = 11 := by decide

/-- A shadow of 16 bits, which every value fits, and one of 10, which 1023 fits and 1024 does not. -/
theorem witness_DriverSetNum :
    (opAt [] 0).seq.step = 0 ∧ 1 ≤ (opAt [] 1).seq.step ∧ (opAt [] 6).seq.step < 7 ∧ (opAt [] 7).seq.step = 7 ∧
    (opAt [] 8).seq.step = 8 ∧ (65535 : Word).toNat < 2 ^ State.reset.cfg.shadowBits ∧
    (1023 : Word).toNat < 2 ^ ({ State.reset with cfg.shadowBits := 10 } : State).cfg.shadowBits ∧
    2 ^ ({ State.reset with cfg.shadowBits := 10 } : State).cfg.shadowBits ≤ (1024 : Word).toNat := by decide

/-- The moves of a whole `DP_INC`, with moves of every other agent among them. -/
def incrementMoves : List Move :=
  [.seq, .edge, .seq, .seq, .seq, .clk] ++ List.replicate 8 .eng ++ [.seq, .readOrder false, .seq] ++
    List.replicate 8 .eng ++ [.seq, .dt, .seq, .seq, .seq]

/-- The reset state of a block whose shadow has 10 bits. -/
def narrowState : State := { State.reset with cfg.shadowBits := 10 }

/-- Each of the four operations from reset; a run to the end and one that stops in the frame; a value that fits the
shadow and one that does not. -/
theorem witness_DriverWritesWireAndShadow :
    State.reset.Inv ∧ State.reset.receiverAgrees = true ∧ State.reset.seq.busy = false ∧
    State.reset.env.spiReady = true ∧ (65535 : Word).toNat < 2 ^ State.reset.cfg.shadowBits ∧
    (129 : Word).toNat = min (State.reset.dp.toNat + 1) (State.reset.cfg.steps - 1) ∧
    (127 : Word).toNat = State.reset.dp.toNat - 1 ∧ 1 ≤ ([0x30] : List Byte).length ∧
    (∀ b ∈ ([0x30] : List Byte), 0x30 ≤ b.toNat ∧ b.toNat ≤ 0x39) ∧ (0 : Word).toNat = parseDecimal [0x30] ∧
    (0 : Word).toNat < State.reset.cfg.steps :=
  ⟨reset_inv, by decide, rfl, rfl, by decide, by decide, by decide, by decide, by decide, by decide, by decide⟩

theorem witness_DriverWritesWireAndShadow_run :
    .reset ∉ incrementMoves ∧ (∀ m ∈ incrementMoves, ∀ c, m ≠ .command c) ∧
    nextHas (fun t => !t.seq.busy)
      (runMoves (.command (encode State.reset.cfg .dpInc) :: incrementMoves) State.reset) = true ∧
    nextHas (fun t => t.seq.busy)
      (runMoves (.command (encode State.reset.cfg .dpInc) :: incrementMoves.take 9) State.reset) = true :=
  ⟨by decide, by simp [incrementMoves], by decide, by decide⟩

theorem witness_DriverWritesWireAndShadow_narrow :
    narrowState.Inv ∧ narrowState.receiverAgrees = true ∧ narrowState.seq.busy = false ∧
    2 ^ narrowState.cfg.shadowBits ≤ (1024 : Word).toNat :=
  ⟨⟨by decide, by decide, by decide, by decide⟩, by decide, rfl, by decide⟩

/-- The move that stores a value in the shadow, and the command with the largest operand in range. -/
def storingState : State := { opAt [0x43, 0x01, 0x00] 7 with spi.cs := true, seq.tmp := 256 }

theorem witness_ShadowStaysInRange :
    storingState.Inv ∧ storingState.wiperInRange = true ∧ storingState.nextMove.keepsWiperRange storingState.cfg = true ∧
    (∃ t, step storingState = .next t) ∧ (Move.command [0x43, 0x01, 0x00]).keepsWiperRange Params.default = true :=
  ⟨⟨by decide, by decide, by decide, by decide⟩, by decide, by decide, ⟨_, rfl⟩, by decide⟩

theorem witness_DisplayTickIndependent : Instr.wtStart ≠ .dtStart ∧ Instr.wtStart ≠ .dtStop ∧
    ∃ t, exec .wtStart (opAt [0x11] 0) = .next t := ⟨by decide, by decide, _, rfl⟩

/-- The mask bit 3 and the mask of all three flags. -/
theorem witness_EventAcknowledge :
    8 ≤ (0x08 : Byte).toNat ∧ (0x07 : Byte).toNat < 8 ∧ (opAt [0x61, 7] 0).seq.step = 0 ∧
    (opAt [0x61, 7] 1).seq.step = 1 ∧ (opAt [0x61, 7] 2).seq.step = 2 := by decide

/-- A flag kept, a flag cleared by `EVT_ACK`, and each flag set by its own source. -/
theorem witness_EventFlagsSetAndCleared :
    (∃ t, takeMove .clk { State.reset with evt := 7 } = .next t) ∧
    nextHas (fun t => t.evt == 0) (takeMove .seq { opAt [0x61, 1] 1 with evt := 1 }) = true ∧
    nextHas (fun t => t.evt.getLsbD 0) (takeMove .edge { State.reset with pc.run := true, pc.cnt := 15 }) = true ∧
    nextHas (fun t => t.evt.getLsbD 1) (takeMove .clk { State.reset with wt.cs := 1, wt.cmp := 1 }) = true ∧
    nextHas (fun t => t.evt.getLsbD 2) (takeMove .dt { State.reset with dt.run := true, dt.cnt := 999 }) = true ∧
    State.reset.evt = 0 := ⟨⟨_, rfl⟩, by decide, by decide, by decide, by decide, by decide⟩

theorem witness_EventPinsFollowFlags :
    nextHas (fun t => t.evt != 0) (takeMove .edge { State.reset with pc.run := true, pc.cnt := 15 }) = true ∧
    nextHas (fun t => t.evt == 0) (takeMove .seq (opAt [0x30, 0xA5] 0)) = true ∧ Move.edge ≠ .reset := by decide

/-- A base clock of a held block with a tap selected, and an edge. -/
theorem witness_HoldFreezesBothUnits :
    (∃ t, takeMove .clk { State.reset with sync.hold := true, wt.cs := 1 } = .next t) ∧
    (∃ t, takeMove .edge { State.reset with sync.hold := true, pc.run := true } = .next t) ∧
    Move.clk ≠ .reset ∧ Move.clk ≠ .seq := ⟨⟨_, rfl⟩, ⟨_, rfl⟩, by decide, by decide⟩

/-- Each counter changed by hardware, and by an operation. -/
theorem witness_CounterWriters :
    nextHas (fun t => t.pc.cnt != 0) (takeMove .edge { State.reset with pc.run := true }) = true ∧
    nextHas (fun t => t.pc.cnt != 9) (takeMove .seq { opAt [0x03] 0 with pc.cnt := 9 }) = true ∧
    nextHas (fun t => t.wt.cnt != 0 && t.sync.psc != 0) (takeMove .clk { State.reset with wt.cs := 1 }) = true ∧
    nextHas (fun t => t.wt.cnt != 9) (takeMove .seq { opAt [0x20] 0 with wt.cnt := 9 }) = true ∧
    nextHas (fun t => t.sync.psc != 9) (takeMove .seq { opAt [0x23] 0 with sync.psc := 9 }) = true ∧
    nextHas (fun t => t.dt.cnt != 0) (takeMove .dt State.reset) = true := by decide

/-- Each control register changed by an operation that the statement names. -/
theorem witness_ControlRegisterWriters :
    nextHas (fun t => t.pc.cmp != 16) (takeMove .seq (opAt [0x05, 0, 32] 1)) = true ∧
    nextHas (fun t => t.pc.run) (takeMove .seq (opAt [0x01] 0)) = true ∧
    nextHas (fun t => t.wt.cmp != 65535) (takeMove .seq (opAt [0x14, 3, 0xE7] 1)) = true ∧
    nextHas (fun t => t.wt.cs != 0) (takeMove .seq (opAt [0x11] 3)) = true ∧
    nextHas (fun t => t.wt.ctc) (takeMove .seq (opAt [0x10] 0)) = true ∧
    nextHas (fun t => t.wt.runcs != 3) (takeMove .seq (opAt [0x15, 2] 1)) = true ∧
    nextHas (fun t => t.sync.hold) (takeMove .seq (opAt [0x21] 0)) = true ∧
    nextHas (fun t => t.dp != 128) (takeMove .seq (opAt [0x43, 0, 0] 7)) = true ∧
    nextHas (fun t => t.dt.run) (takeMove .seq (opAt [0x50] 0)) = true := by decide

theorem witness_ResetMeetsInvariant : Params.default.legal = true := by decide

theorem witness_EveryStepKeepsInvariant :
    storingState.Inv ∧ (∃ t, step storingState = .next t) ∧ hungState.Inv ∧ (∃ t, step hungState = .next t) :=
  ⟨witness_ShadowStaysInRange.1, ⟨_, rfl⟩, witness_HangNeverEnds.1, ⟨_, rfl⟩⟩

theorem witness_EveryStepKeepsReceiver :
    (opAt [0x30, 0xA5] 0).receiverAgrees = true ∧ ∃ t, step (opAt [0x30, 0xA5] 0) = .next t := ⟨by decide, _, rfl⟩

theorem witness_MachineNeverStops : hungState.Inv := witness_HangNeverEnds.1

/-- A driver operation in the middle of its first byte. -/
def halfwayState : State :=
  { opAt [0x40] 4 with spi.cs := false, spi.busy := true, spi.bitcnt := 3, seq.tmp := 129 }

theorem witness_EveryOperationEnds :
    halfwayState.Inv ∧ halfwayState.seq.busy = true ∧ halfwayState.env.inputs = [] ∧ halfwayState.env.spiReady = true :=
  ⟨⟨by decide, by decide, by decide, by decide⟩, rfl, rfl, rfl⟩

theorem witness_IdleBlockIsQuiet : State.reset.Inv ∧ State.reset.seq.busy = false := ⟨reset_inv, rfl⟩

theorem witness_LinkTouchesNothingElse :
    (∃ t, exec (.spiWrite8 0xA5) (opAt [0x30, 0xA5] 1) = .next t) ∧
    (∃ t, exec (.spiWrite16 0x64) (opAt [0x31, 0, 0x64] 3) = .next t) ∧
    (Instr.wireRead 0 0).space = .wire ∧ (∃ t, exec (.wireRead 0 0) (wireAt [0x0C, 0x00] 1) = .next t) ∧
    ∃ t, takeMove .eng { opAt [0x30, 0xA5] 2 with spi.busy := true } = .next t :=
  ⟨⟨_, rfl⟩, ⟨_, rfl⟩, rfl, ⟨_, rfl⟩, _, rfl⟩

end Sys2Proof.Tests
end

/-! ## The next move and the sequencer's own move -/

namespace Sys2Proof.Machine

/-- Taking the first move off a list of moves leaves the rest of it. -/
theorem popMove_cons {s : State} {m : Move} {ms : List Move} (h : s.env.inputs = m :: ms) :
    s.popMove = { s with env.inputs := ms } := by
  simp [State.popMove, h]

/-- 00_scope.md R5: with moves still to come, one step is the first of them, on the state that has the rest to come. -/
theorem step_cons {s : State} {m : Move} {ms : List Move} (h : s.env.inputs = m :: ms) :
    step s = takeMove m { s with env.inputs := ms } := by
  rw [step_eq, nextMove_cons h, popMove_cons h]

/-- 10_state.md R28: a busy sequencer runs the operation that `SEQ_OP` holds. -/
theorem seqStep_of_fetched {s : State} {i : Instr} (hbusy : s.seq.busy = true) (hop : s.fetched = .ok i) :
    seqStep s = exec i s := by
  simp [seqStep, hbusy, hop]

/-- Settles O8: the step is SEQ's move on the state without that move, whose sequencer is the same. -/
theorem stepRunsDecodedOperation : Obligations.StepRunsDecodedOperation := by
  intro s ms i hinputs hbusy hop
  calc step s
    _ = seqStep { s with env.inputs := ms } := step_cons hinputs
    _ = exec i { s with env.inputs := ms } := seqStep_of_fetched hbusy hop

end Sys2Proof.Machine

/-! ## What one primitive step can do

Everything that a primitive step of an operation can do, said once: a step of the operation's frame (`FrameStep`), a
write of `SEQ_TMP`, a write of the units' registers (`RegisterWrite`), or the end. `performs_of_exec` shows that each step
of each operation is one of these; what the operations keep is read off the cases. -/

namespace Sys2Proof.Machine

/-! ### Where the steps of an operation stand -/

/-- An operation without a frame neither waits nor writes a wiper value. -/
theorem plain_of_frameAt_none {i : Instr} (h : frameAt i = none) (p : Params) (k : Nat) :
    inFrame i k = false ∧ holdsWiper i k = false ∧ textChecked p i k = true := by
  cases i <;> simp_all [frameAt, inFrame, holdsWiper, textChecked]

/-- A frame carries one byte or two. -/
theorem frameAt_bytes {i : Instr} {a n : Nat} (h : frameAt i = some (a, n)) : n = 1 ∨ n = 2 := by
  cases i <;> simp [frameAt] at h <;> omega

/-- The step after a frame is a step of the operation. -/
theorem frameAt_lt_stepCount {i : Instr} {a n : Nat} (h : frameAt i = some (a, n)) (p : Params) :
    a + 2 * n + 2 < stepCount p i := by
  cases i <;> simp [frameAt] at h <;> obtain ⟨rfl, rfl⟩ := h <;> simp [stepCount]

/-- 30_encoding.md R77: no operation with a frame has a reserved operand. -/
theorem reservedOperand_of_frameAt {i : Instr} {x : Nat × Nat} (h : frameAt i = some x) (p : Params) :
    reservedOperand p i = false := by
  cases i <;> simp [frameAt] at h <;> rfl

/-- Before the step of offset `j` of the frame, chip-select is asserted unless `j` is 0. -/
theorem inFrame_add {i : Instr} {a n : Nat} (h : frameAt i = some (a, n)) (j : Nat) :
    inFrame i (a + j) = decide (0 < j ∧ j ≤ 2 * n + 1) := by
  simp only [inFrame, h, decide_eq_decide]; omega

/-- The waits are the steps of offset 2 and, with two bytes, 4. -/
theorem isWait_add {i : Instr} {a n : Nat} (h : frameAt i = some (a, n)) (j : Nat) :
    isWait i (a + j) = decide (j = 2 ∨ (n = 2 ∧ j = 4)) := by
  simp only [isWait, h, decide_eq_decide]; omega

/-- An operation waits inside its frame only. -/
theorem isWait_of_not_inFrame {i : Instr} {k : Nat} (h : inFrame i k = false) : isWait i k = false := by
  cases hf : frameAt i with
  | none => simp [isWait, hf]
  | some x =>
    have hn := frameAt_bytes hf
    simp only [inFrame, hf, decide_eq_false_iff_not] at h
    simp only [isWait, hf, decide_eq_false_iff_not]
    omega

/-- 44_digipot.md R190: a value that is held after a step of the frame was held before it. -/
theorem holdsWiper_of_succ_frame {i : Instr} {a n j : Nat} (h : frameAt i = some (a, n)) (hj : j ≤ 2 * n + 1)
    (hw : holdsWiper i (a + j + 1) = true) : holdsWiper i (a + j) = true := by
  cases i <;> simp [frameAt] at h <;> obtain ⟨rfl, rfl⟩ := h <;> simp [holdsWiper] at hw ⊢ <;> omega

/-- 44_digipot.md R188: a text whose frame has begun is checked. -/
theorem textChecked_succ_frame {i : Instr} {a n : Nat} (h : frameAt i = some (a, n)) (p : Params) (j : Nat)
    (ht : textChecked p i (a + j) = true) : textChecked p i (a + j + 1) = true := by
  cases i <;> simp [frameAt] at h <;> simp [textChecked] at ht ⊢
  obtain ⟨rfl, -⟩ := h
  rcases ht with ht | ht
  · omega
  · exact .inr ht

/-! ### What a step does -/

/-- The step of offset `j` of a frame of `n` bytes (43_spi_link.md R163), from `s`. -/
inductive FrameStep (s : State) (n : Nat) : Nat → State → Prop
  | assertCs : FrameStep s n 0 (s.driveCs (csActive s.cfg)).advance
  | loadByte {j : Nat} (hj : j < n) (b : Byte) : FrameStep s n (2 * j + 1) (s.loadShift b).advance
  | waiting {j : Nat} (hj : j < n) (hb : s.spi.busy = true) : FrameStep s n (2 * j + 2) s
  | waited {j : Nat} (hj : j < n) (hb : s.spi.busy = false) : FrameStep s n (2 * j + 2) s.advance
  | releaseCs : FrameStep s n (2 * n + 1) (s.driveCs (csInactive s.cfg)).advance

/-- The writes of the units' registers that the rules give the operations (10_state.md R34): `RegisterWrite i s u` when
a step of `i` from `s` leaves the registers as in `u`. -/
inductive RegisterWrite : Instr → State → State → Prop
  | nothing (i : Instr) (s : State) : RegisterWrite i s s
  | pcEnable (s : State) : RegisterWrite .pcEnable s { s with pc.cnt := 0, pc.run := true }
  | pcDisable (s : State) : RegisterWrite .pcDisable s { s with pc.run := false }
  | pcClear (s : State) : RegisterWrite .pcClear s { s with pc.cnt := 0 }
  | pcSetcmp (s : State) (v : Word) :
      RegisterWrite (.pcSetcmp v) s { s with pc.cmp := v.toNat % 2 ^ s.cfg.nPc }
  | wtInit (s : State) : RegisterWrite .wtInit s { s with wt.ctc := true, wt.cs := 0 }
  | wtStartWindow (s : State) : RegisterWrite .wtStart s { s with wt.cnt := 0 }
  | wtStartHold (s : State) : RegisterWrite .wtStart s { s with sync.hold := true }
  | wtStartPulses (s : State) : RegisterWrite .wtStart s { s with pc.cnt := 0 }
  | wtStartSelect (s : State) : RegisterWrite .wtStart s { s with wt.cs := s.wt.runcs }
  | wtStartPrescaler (s : State) : RegisterWrite .wtStart s { s with sync.psc := 0 }
  | wtStartRelease (s : State) : RegisterWrite .wtStart s { s with sync.hold := false }
  | wtStop (s : State) : RegisterWrite .wtStop s { s with wt.cs := 0 }
  | wtSetcmp (s : State) (v : Word) :
      RegisterWrite (.wtSetcmp v) s { s with wt.cmp := v.toNat % 2 ^ s.cfg.nWt }
  | wtSetruncs (s : State) (v : Byte) (hk : s.seq.step = 1) :
      RegisterWrite (.wtSetruncs v) s { s with wt.runcs := v.extractLsb' 0 3 }
  | wtClr (s : State) : RegisterWrite .wtClr s { s with wt.cnt := 0 }
  | syncHold (s : State) : RegisterWrite .syncHold s { s with sync.hold := true }
  | wtSetcs (s : State) (v : Byte) (hk : s.seq.step = 1) :
      RegisterWrite (.wtSetcs v) s { s with wt.cs := v.extractLsb' 0 3 }
  | pscReset (s : State) : RegisterWrite .pscReset s { s with sync.psc := 0 }
  | syncRelease (s : State) : RegisterWrite .syncRelease s { s with sync.hold := false }
  | shadow (i : Instr) (s : State) (hw : holdsWiper i s.seq.step = true) : RegisterWrite i s s.storeShadow
  | dtStart (s : State) : RegisterWrite .dtStart s { s with dt.run := true }
  | dtStop (s : State) : RegisterWrite .dtStop s { s with dt.run := false }
  | evtAck (s : State) (v : Byte) (hk : s.seq.step = 1) :
      RegisterWrite (.evtAck v) s (s.setEvt (ackedFlags s.evt v))

/-- The value that a mutating driver operation writes (44_digipot.md R186 to R190). -/
def wiperTarget (i : Instr) (s : State) : Nat :=
  match i with
  | .dpInc => incremented s.cfg s.dp
  | .dpDec => decremented s.dp
  | .dpSetText text => parseDecimal text
  | .dpSetNum v => v.toNat
  | _ => 0

/-- The step of index `k` is outside the frame of `i` and not the last, and it goes on only if the checks that stand
before its successor have passed (30_encoding.md R77, 44_digipot.md R188). -/
structure GoesOn (p : Params) (i : Instr) (k : Nat) : Prop where
  last : k + 1 < stepCount p i
  outside : inFrame i k = false
  outside_succ : inFrame i (k + 1) = false
  operand : k = 0 → reservedOperand p i = false
  text : textChecked p i k = true → textChecked p i (k + 1) = true

/-- Everything that the primitive step of index `SEQ_STEP` of `i` can do. -/
inductive Performs (i : Instr) (s : State) : State → Prop
  /-- A step of the operation's frame. -/
  | frame {a n j : Nat} {t : State} (hf : frameAt i = some (a, n)) (hk : s.seq.step = a + j)
      (h : FrameStep s n j t) : Performs i s t
  /-- A write of `SEQ_TMP`: of the value on its way to the wire, or of a sample of a counter. -/
  | keepValue (v : Word) (loFirst : Bool) (hg : GoesOn s.cfg i s.seq.step)
      (hv : holdsWiper i (s.seq.step + 1) = true → v = BitVec.ofNat 16 (wiperTarget i s)) :
      Performs i s { s with seq.tmp := v, seq.loFirst := loFirst, seq.step := s.seq.step + 1 }
  /-- A write of registers, or a check that passes. -/
  | registers {u : State} (h : RegisterWrite i s u) (hg : GoesOn s.cfg i s.seq.step)
      (hw : holdsWiper i (s.seq.step + 1) = false) : Performs i s u.advance
  /-- The end, with a response. -/
  | respond (status : Byte) (value : List Byte) (ho : inFrame i s.seq.step = false) :
      Performs i s (s.deliver status value)
  /-- The end of a wire word's job. -/
  | endJob (ho : inFrame i s.seq.step = false) : Performs i s s.advance.idle

/-! ### Each step of each operation is one of these -/

/-- The step `f`, if `SEQ_STEP` is its index `k` in `i`, answers a next state and does what a step of `i` can do. -/
def Meets (i : Instr) (s : State) (k : Nat) (f : PrimStep) : Prop :=
  s.seq.step = k → ∃ t, f s = .next t ∧ Performs i s t

/-- The steps of a list, the first of which has index `k`, each do what a step of `i` can do. -/
def StepsMeet (i : Instr) (s : State) : Nat → List PrimStep → Prop
  | _, [] => True
  | k, f :: fs => Meets i s k f ∧ StepsMeet i s (k + 1) fs

theorem stepsMeet_append {i : Instr} {s : State} {k : Nat} {fs gs : List PrimStep}
    (hf : StepsMeet i s k fs) (hg : StepsMeet i s (k + fs.length) gs) : StepsMeet i s k (fs ++ gs) := by
  induction fs generalizing k with
  | nil => exact hg
  | cons f fs ih =>
    refine ⟨hf.1, ih hf.2 ?_⟩
    rwa [List.length_cons, Nat.add_comm fs.length, ← Nat.add_assoc] at hg

theorem meets_of_getElem? {i : Instr} {s : State} {k j : Nat} {fs : List PrimStep} {f : PrimStep}
    (h : StepsMeet i s k fs) (hf : fs[j]? = some f) : Meets i s (k + j) f := by
  induction fs generalizing k j with
  | nil => simp at hf
  | cons g fs ih =>
    cases j with
    | zero =>
      obtain rfl : g = f := by simpa using hf
      exact h.1
    | succ j =>
      rw [Nat.add_comm j, ← Nat.add_assoc]
      exact ih h.2 (by simpa using hf)

section Meets

variable {i : Instr} {s : State} {k : Nat}

theorem meets_write {f : State → State} (h : s.seq.step = k → RegisterWrite i s (f s)) (hg : GoesOn s.cfg i k)
    (hw : holdsWiper i (k + 1) = false) : Meets i s k (write f) := by
  rintro rfl
  exact ⟨_, rfl, .registers (h rfl) hg hw⟩

theorem meets_respond (value : State → List Byte) (ho : inFrame i k = false) : Meets i s k (respond value) := by
  rintro rfl
  exact ⟨_, rfl, .respond _ _ ho⟩

theorem meets_keepValue (v : State → Word) (hg : GoesOn s.cfg i k)
    (hv : holdsWiper i (k + 1) = true → v s = BitVec.ofNat 16 (wiperTarget i s)) :
    Meets i s k (write fun s => s.setTmp (v s)) := by
  rintro rfl
  exact ⟨_, rfl, .keepValue (v s) s.seq.loFirst hg hv⟩

/-- A check that raises `ILLEGAL`; what stands behind it needs that it passes. -/
theorem meets_illegalIf {bad : State → Bool} (ho : inFrame i k = false)
    (hg : bad s = false → GoesOn s.cfg i k) (hw : holdsWiper i (k + 1) = false) :
    Meets i s k (illegalIf bad) := by
  rintro rfl
  rcases illegalIf_cases bad s with ⟨-, h⟩ | ⟨hb, h⟩
  · exact ⟨_, h, .respond _ _ ho⟩
  · exact ⟨_, h, .registers (.nothing i s) (hg hb) hw⟩

/-- A check that raises `FAIL`; what stands behind it needs that it passes. -/
theorem meets_failIf {bad : State → Bool} (ho : inFrame i k = false)
    (hg : bad s = false → GoesOn s.cfg i k) (hw : holdsWiper i (k + 1) = false) :
    Meets i s k (failIf bad) := by
  rintro rfl
  rcases failIf_cases bad s with ⟨-, h⟩ | ⟨hb, h⟩
  · exact ⟨_, h, .respond _ _ ho⟩
  · exact ⟨_, h, .registers (.nothing i s) (hg hb) hw⟩

/-- The bytes of a frame from the `j`-th on. -/
theorem stepsMeet_byteSteps {a n : Nat} (hf : frameAt i = some (a, n)) (bytes : List (State → Byte)) (j : Nat)
    (hn : j + bytes.length = n) : StepsMeet i s (a + (2 * j + 1)) (bytes.flatMap byteSteps) := by
  induction bytes generalizing j with
  | nil => trivial
  | cons b bytes ih =>
    rw [List.length_cons] at hn
    refine ⟨fun hk => ⟨_, rfl, .frame hf hk (.loadByte (by omega) (b s))⟩, fun hk => ?_,
      ih (j + 1) (by omega)⟩
    rcases waitTransfer_cases s with ⟨hb, h⟩ | ⟨hb, h⟩
    · exact ⟨_, h, .frame hf hk (.waiting (by omega) hb)⟩
    · exact ⟨_, h, .frame hf hk (.waited (by omega) hb)⟩

/-- A frame stands where `frameAt` says. -/
theorem stepsMeet_spiFrame {bytes : List (State → Byte)} (hf : frameAt i = some (k, bytes.length)) :
    StepsMeet i s k (spiFrame bytes) := by
  have hlen : (bytes.flatMap byteSteps).length = 2 * bytes.length := by
    simp [List.length_flatMap, byteSteps, Nat.mul_comm]
  refine ⟨fun hk => ⟨_, rfl, .frame (j := 0) hf hk .assertCs⟩, stepsMeet_append
    (stepsMeet_byteSteps hf bytes 0 (Nat.zero_add _)) ⟨fun hk => ⟨_, rfl, .frame hf (hk.trans ?_) .releaseCs⟩, trivial⟩⟩
  omega

/-- A write to the actuator whose frame stands behind the step of index `k`. -/
theorem stepsMeet_dpWrite {v : State → Nat} (hf : frameAt i = some (k + 1, 2)) (hg : GoesOn s.cfg i k)
    (hv : v s = wiperTarget i s) (hs : GoesOn s.cfg i (k + 7)) (hw : holdsWiper i (k + 7) = true)
    (hw' : holdsWiper i (k + 8) = false) : StepsMeet i s k (dpWrite v) := by
  refine ⟨meets_keepValue _ hg fun _ => by rw [hv], stepsMeet_append (stepsMeet_spiFrame hf) ⟨?_, trivial⟩⟩
  exact meets_write (fun hk => .shadow i s (hk ▸ hw)) hs hw'

/-- Outside a frame nothing but the last step and the operand check hold an operation up. -/
theorem goesOn_of_plain {p : Params} (hf : frameAt i = none) (hl : k + 1 < stepCount p i)
    (ho : k = 0 → reservedOperand p i = false) : GoesOn p i k where
  last := hl
  outside := (plain_of_frameAt_none hf p k).1
  outside_succ := (plain_of_frameAt_none hf p (k + 1)).1
  operand := ho
  text _ := (plain_of_frameAt_none hf p (k + 1)).2.2

/-- A step that writes registers, of an operation without a frame. -/
theorem meets_control {f : State → State} (hf : frameAt i = none) (hl : k + 1 < stepCount s.cfg i)
    (ho : k = 0 → reservedOperand s.cfg i = false) (h : s.seq.step = k → RegisterWrite i s (f s)) :
    Meets i s k (write f) :=
  meets_write h (goesOn_of_plain hf hl ho) (plain_of_frameAt_none hf s.cfg (k + 1)).2.1

/-- The response of an operation without a frame. -/
theorem meets_respond_plain (value : State → List Byte) (hf : frameAt i = none) : Meets i s k (respond value) :=
  meets_respond value (plain_of_frameAt_none hf s.cfg k).1

/-- One write of registers and the response. -/
theorem stepsMeet_control {f : State → State} (hf : frameAt i = none) (hc : stepCount s.cfg i = 2)
    (ho : reservedOperand s.cfg i = false) (h : RegisterWrite i s (f s)) :
    StepsMeet i s 0 [write f, respondOk] :=
  ⟨meets_control hf (by omega) (fun _ => ho) fun _ => h, meets_respond_plain _ hf, trivial⟩

/-- The operand check, one write of registers and the response. -/
theorem stepsMeet_checked {bad : State → Bool} {f : State → State} (hf : frameAt i = none)
    (hc : stepCount s.cfg i = 3) (hbad : reservedOperand s.cfg i = bad s)
    (h : s.seq.step = 1 → RegisterWrite i s (f s)) : StepsMeet i s 0 [illegalIf bad, write f, respondOk] := by
  have hplain := plain_of_frameAt_none hf s.cfg
  refine ⟨meets_illegalIf (hplain 0).1 (fun hb => ?_) (hplain 1).2.1, meets_control hf (by omega) (by omega) h,
    meets_respond_plain _ hf, trivial⟩
  exact goesOn_of_plain hf (by omega) fun _ => hbad.trans hb

/-- The read of a counter, in one sample or in two (20_memory.md R56). -/
theorem stepsMeet_readSteps {n count : Nat} (hf : frameAt i = none)
    (hc : stepCount s.cfg i = if n ≤ 8 then 2 else 3) (ho : reservedOperand s.cfg i = false) :
    StepsMeet i s 0 (readSteps n count) := by
  have hplain := plain_of_frameAt_none hf s.cfg
  have hno (k : Nat) (v : Word) : holdsWiper i (k + 1) = true → v = BitVec.ofNat 16 (wiperTarget i s) := by
    simp [(hplain (k + 1)).2.1]
  by_cases hn : n ≤ 8
  · rw [if_pos hn] at hc
    rw [readSteps, if_pos hn]
    exact ⟨meets_keepValue _ (goesOn_of_plain hf (by omega) fun _ => ho) (hno 0 _), meets_respond_plain _ hf, trivial⟩
  · rw [if_neg hn] at hc
    rw [readSteps, if_neg hn]
    exact ⟨fun hk => ⟨_, rfl, .keepValue _ _ (goesOn_of_plain hf (by omega) fun _ => ho) (hno _ _)⟩,
      fun hk => ⟨_, rfl, .keepValue _ s.seq.loFirst (goesOn_of_plain hf (by omega) (by omega)) (hno _ _)⟩,
      meets_respond_plain _ hf, trivial⟩

/-- The job of a wire word. -/
theorem stepsMeet_wireFrame (w : Word) (hf : frameAt i = some (0, 2)) (ho : inFrame i 6 = false) :
    StepsMeet i s 0 (wireFrame w) :=
  stepsMeet_append (stepsMeet_spiFrame hf) ⟨fun hk => ⟨_, rfl, .endJob (hk ▸ ho)⟩, trivial⟩

end Meets


/-- The steps of `DP_INC` and `DP_DEC`. -/
theorem stepsMeet_dpStep {i : Instr} {s : State} {v : State → Nat} (hi : i = .dpInc ∨ i = .dpDec)
    (hv : v s = wiperTarget i s) :
    StepsMeet i s 0 (write id :: (dpWrite v ++ [respond fun s => wordValue s.dp])) := by
  have hg (k : Nat) (hk : k < 2 ∨ k = 8) : GoesOn s.cfg i k := by
    rcases hi with rfl | rfl <;> rcases hk with hk | rfl <;>
      constructor <;> simp [stepCount, inFrame, frameAt, reservedOperand, textChecked] <;> omega
  have hf : frameAt i = some (2, 2) := by rcases hi with rfl | rfl <;> rfl
  have hw (k : Nat) : holdsWiper i k = decide (2 ≤ k ∧ k ≤ 8) := by rcases hi with rfl | rfl <;> rfl
  refine ⟨meets_write (fun _ => .nothing _ s) (hg 0 (by omega)) (hw 1),
    stepsMeet_append (stepsMeet_dpWrite hf (hg 1 (by omega)) hv (hg 8 (by omega)) (hw 8) (hw 9))
    ⟨meets_respond _ ?_, trivial⟩⟩
  simp only [inFrame, hf]
  rfl

/-- The steps of `DP_SET_NUM`. -/
theorem stepsMeet_dpSetNum (s : State) (v : Word) :
    StepsMeet (.dpSetNum v) s 0 (dpWrite (fun _ => v.toNat) ++ [respondOk]) := by
  have hg (k : Nat) (hk : k = 0 ∨ k = 7) : GoesOn s.cfg (.dpSetNum v) k := by
    rcases hk with rfl | rfl <;> constructor <;> simp [stepCount, inFrame, frameAt, reservedOperand, textChecked]
  exact stepsMeet_append (stepsMeet_dpWrite rfl (hg 0 (.inl rfl)) rfl (hg 7 (.inr rfl)) rfl rfl)
    ⟨meets_respond _ rfl, trivial⟩

/-- The steps of `DP_SET_TEXT`; behind the third the text is a wiper position (44_digipot.md R188). -/
theorem stepsMeet_dpSetText (s : State) (text : List Byte) :
    StepsMeet (.dpSetText text) s 0 (
      failIf (fun _ => badTextLength text) :: failIf (fun _ => badTextDigit text) ::
      failIf (fun s => badTextValue s.cfg text) :: (dpWrite (fun _ => parseDecimal text) ++ [respondOk])) := by
  have hg (k : Nat) (hk : k ≤ 3 ∨ k = 10) (ht : k = 2 → badTextValue s.cfg text = false) :
      GoesOn s.cfg (.dpSetText text) k := by
    have hlast : k + 1 < 12 := by omega
    have hout : ¬(4 < k ∧ k ≤ 9) ∧ ¬(4 < k + 1 ∧ k + 1 ≤ 9) := by omega
    refine ⟨hlast, decide_eq_false hout.1, decide_eq_false hout.2, fun _ => rfl, fun hc => ?_⟩
    simp only [textChecked, Bool.or_eq_true, decide_eq_true_eq, Bool.not_eq_true'] at hc ⊢
    rcases hc with hc | hc
    · exact (Nat.lt_or_eq_of_le (Nat.succ_le_of_lt hc)).imp id fun h => ht (by omega)
    · exact .inr hc
  refine ⟨meets_failIf rfl (fun _ => hg 0 (by omega) (by omega)) rfl,
    meets_failIf rfl (fun _ => hg 1 (by omega) (by omega)) rfl,
    meets_failIf rfl (fun hb => hg 2 (by omega) fun _ => hb) rfl,
    stepsMeet_append (stepsMeet_dpWrite rfl (hg 3 (by omega) (by omega)) rfl (hg 10 (by omega) (by omega)) rfl rfl)
      ⟨meets_respond _ rfl, trivial⟩⟩

/-- Each step of each operation does what `Performs` allows. -/
theorem stepsMeet_primStepsOf (i : Instr) (s : State) : StepsMeet i s 0 (primStepsOf i s) := by
  cases i with
  | pcEnable => exact stepsMeet_control rfl rfl rfl (.pcEnable s)
  | pcDisable => exact stepsMeet_control rfl rfl rfl (.pcDisable s)
  | pcClear => exact stepsMeet_control rfl rfl rfl (.pcClear s)
  | pcRead => exact stepsMeet_readSteps rfl rfl rfl
  | pcSetcmp v => exact stepsMeet_checked rfl rfl rfl fun _ => .pcSetcmp s v
  | wtInit => exact stepsMeet_control rfl rfl rfl (.wtInit s)
  | wtStart =>
    have hf : frameAt .wtStart = none := rfl
    have hc : stepCount s.cfg .wtStart = 7 := rfl
    exact ⟨meets_control hf (by omega) (fun _ => rfl) fun _ => .wtStartWindow s,
      meets_control hf (by omega) (fun _ => rfl) fun _ => .wtStartHold s,
      meets_control hf (by omega) (fun _ => rfl) fun _ => .wtStartPulses s,
      meets_control hf (by omega) (fun _ => rfl) fun _ => .wtStartSelect s,
      meets_control hf (by omega) (fun _ => rfl) fun _ => .wtStartPrescaler s,
      meets_control hf (by omega) (fun _ => rfl) fun _ => .wtStartRelease s, meets_respond_plain _ hf, trivial⟩
  | wtStop => exact stepsMeet_control rfl rfl rfl (.wtStop s)
  | wtRead => exact stepsMeet_readSteps rfl rfl rfl
  | wtSetcmp v => exact stepsMeet_checked rfl rfl rfl fun _ => .wtSetcmp s v
  | wtSetruncs v => exact stepsMeet_checked rfl rfl rfl (.wtSetruncs s v)
  | wtClr => exact stepsMeet_control rfl rfl rfl (.wtClr s)
  | syncHold => exact stepsMeet_control rfl rfl rfl (.syncHold s)
  | wtSetcs v => exact stepsMeet_checked rfl rfl rfl (.wtSetcs s v)
  | pscReset => exact stepsMeet_control rfl rfl rfl (.pscReset s)
  | syncRelease => exact stepsMeet_control rfl rfl rfl (.syncRelease s)
  | spiWrite8 b =>
    exact stepsMeet_append (stepsMeet_spiFrame (bytes := [fun _ => b]) rfl) ⟨meets_respond _ rfl, trivial⟩
  | spiWrite16 w =>
    exact stepsMeet_append (stepsMeet_spiFrame (bytes := [fun _ => hiByte w, fun _ => loByte w]) rfl)
      ⟨meets_respond _ rfl, trivial⟩
  | dpInc => exact stepsMeet_dpStep (.inl rfl) rfl
  | dpDec => exact stepsMeet_dpStep (.inr rfl) rfl
  | dpSetText text => exact stepsMeet_dpSetText s text
  | dpSetNum v => exact stepsMeet_dpSetNum s v
  | dpGet => exact ⟨meets_respond _ rfl, trivial⟩
  | dtStart => exact stepsMeet_control rfl rfl rfl (.dtStart s)
  | dtStop => exact stepsMeet_control rfl rfl rfl (.dtStop s)
  | evtRead => exact ⟨meets_respond _ rfl, trivial⟩
  | evtAck v => exact stepsMeet_checked rfl rfl rfl (.evtAck s v)
  | wireWrite a d => exact stepsMeet_wireFrame _ rfl rfl
  | wireIncr a d => exact stepsMeet_wireFrame _ rfl rfl
  | wireDecr a d => exact stepsMeet_wireFrame _ rfl rfl
  | wireRead a d => exact stepsMeet_wireFrame _ rfl rfl

/-- The list of the steps of an operation has `stepCount` entries. -/
theorem length_primStepsOf (i : Instr) (s : State) : (primStepsOf i s).length = stepCount s.cfg i := by
  have hread (n count : Nat) : (readSteps n count).length = if n ≤ 8 then 2 else 3 := by
    unfold readSteps; split <;> rfl
  cases i with
  | pcRead => exact hread _ _
  | wtRead => exact hread _ _
  | _ => rfl

/-- Whatever a primitive step of an operation answers, `Performs` says what it does. -/
theorem performs_of_exec {i : Instr} {s t : State} (h : exec i s = .next t) : Performs i s t := by
  obtain ⟨f, hf, hft⟩ := exec_next h
  obtain ⟨t', ht', hp⟩ := meets_of_getElem? (stepsMeet_primStepsOf i s) hf (Nat.zero_add _).symm
  obtain rfl : t' = t := by simpa [ht'] using hft
  exact hp

/-- Settles O11: each of the `stepCount` steps answers a next state, and there is no other. -/
theorem everyInstructionAnswers : Obligations.EveryInstructionAnswers := by
  intro i s
  rw [exec_eq_performStep, ← length_primStepsOf i s]
  constructor
  · intro hlt
    have hf := List.getElem?_eq_getElem hlt
    obtain ⟨t, ht, -⟩ := meets_of_getElem? (stepsMeet_primStepsOf i s) hf (Nat.zero_add _).symm
    exact ⟨t, (performStep_of_getElem? hf).trans ht⟩
  · intro hge
    simp [performStep, List.getElem?_eq_none hge]

/-! ### What every primitive step keeps -/

/-- A write of registers touches nothing else that the machine goes by. -/
theorem RegisterWrite.kept {i : Instr} {s u : State} (h : RegisterWrite i s u) :
    u.cfg = s.cfg ∧ u.env = s.env ∧ u.seq = s.seq ∧ u.spi = s.spi := by
  cases h <;> simp

/-- A step of a frame leaves all but the link, the observations and `SEQ_STEP`. -/
theorem FrameStep.kept {s t : State} {n j : Nat} (h : FrameStep s n j t) :
    t = { s with spi := t.spi, out := t.out, seq.step := t.seq.step } := by
  cases h <;> rfl

/-- 10_state.md R24, R28: no primitive step changes the parameters, the environment or the operation. -/
theorem Performs.kept {i : Instr} {s t : State} (h : Performs i s t) :
    t.cfg = s.cfg ∧ t.env = s.env ∧ t.seq.op = s.seq.op ∧ t.seq.space = s.seq.space := by
  cases h with
  | frame hf hk h => rw [h.kept]; exact ⟨rfl, rfl, rfl, rfl⟩
  | registers h hg hw =>
    obtain ⟨hcfg, henv, hseq, -⟩ := h.kept
    exact ⟨hcfg, henv, by simp [hseq], by simp [hseq]⟩
  | _ => exact ⟨rfl, rfl, rfl, rfl⟩

/-- 10_state.md R28: a step of a frame is a wait for the byte in flight, or moves `SEQ_STEP` on. -/
theorem FrameStep.advances {s t : State} {n j : Nat} (h : FrameStep s n j t) :
    (t = s ∧ s.spi.busy = true ∧ ∃ l < n, j = 2 * l + 2) ∨
    (t.seq.step = s.seq.step + 1 ∧ (s.spi.busy = false ∨ ∀ l < n, j ≠ 2 * l + 2)) := by
  cases h with
  | assertCs => exact .inr ⟨rfl, .inr fun l _ => by omega⟩
  | loadByte hj b => exact .inr ⟨rfl, .inr fun l _ => by omega⟩
  | waiting hj hb => exact .inl ⟨rfl, hb, _, hj, rfl⟩
  | waited hj hb => exact .inr ⟨rfl, .inl hb⟩
  | releaseCs => exact .inr ⟨rfl, .inr fun l _ => by omega⟩

/-- The wait steps of a frame, by their offset. -/
theorem isWait_add_iff {i : Instr} {a n : Nat} (hf : frameAt i = some (a, n)) (j : Nat) :
    isWait i (a + j) = true ↔ ∃ l < n, j = 2 * l + 2 := by
  rw [isWait_add hf, decide_eq_true_iff]
  constructor
  · rintro (rfl | ⟨rfl, rfl⟩)
    · exact ⟨0, by have := frameAt_bytes hf; omega, rfl⟩
    · exact ⟨1, by omega, rfl⟩
  · rintro ⟨l, hl, rfl⟩
    have := frameAt_bytes hf
    omega

/-- 10_state.md R28: a primitive step is a wait for the byte in flight, or moves `SEQ_STEP` on. -/
theorem Performs.advances {i : Instr} {s t : State} (h : Performs i s t) :
    (t = s ∧ s.spi.busy = true ∧ isWait i s.seq.step = true) ∨
    (t.seq.step = s.seq.step + 1 ∧ (s.spi.busy = false ∨ isWait i s.seq.step = false)) := by
  cases h with
  | frame hf hk h =>
    rcases h.advances with ⟨ht, hb, hj⟩ | ⟨ht, hb | hj⟩
    · exact .inl ⟨ht, hb, hk ▸ (isWait_add_iff hf _).mpr hj⟩
    · exact .inr ⟨ht, .inl hb⟩
    · refine .inr ⟨ht, .inr (Bool.eq_false_iff.mpr fun hw => ?_)⟩
      obtain ⟨l, hl, h⟩ := (isWait_add_iff hf _).mp (hk ▸ hw)
      exact hj l hl h
  | keepValue v lf hg hv => exact .inr ⟨rfl, .inr (isWait_of_not_inFrame hg.outside)⟩
  | registers h hg hw =>
    obtain ⟨-, -, hseq, -⟩ := h.kept
    exact .inr ⟨by simp [hseq], .inr (isWait_of_not_inFrame hg.outside)⟩
  | respond status value ho => exact .inr ⟨rfl, .inr (isWait_of_not_inFrame ho)⟩
  | endJob ho => exact .inr ⟨rfl, .inr (isWait_of_not_inFrame ho)⟩

/-- Settles O12: a step that is no wait for the byte in flight moves `SEQ_STEP` on, and none touches the rest. -/
theorem primitiveStepAdvances : Obligations.PrimitiveStepAdvances := by
  intro i s t h
  have hp := performs_of_exec h
  refine ⟨fun ⟨hb, hw⟩ => ?_, fun hno => ?_, hp.kept⟩
  · rcases hp.advances with ⟨ht, -⟩ | ⟨-, hb' | hw'⟩
    · exact ht
    · simp [hb] at hb'
    · simp [hw] at hw'
  · rcases hp.advances with ⟨-, hb, hw⟩ | ⟨ht, -⟩
    · simp [hb, hw] at hno
    · exact ht

/-! ## Who writes the registers of the units -/

/-! ### Under a primitive step -/

/-- The registers of the units of `t` other than the link are those of `s`. -/
structure SameUnits (s t : State) : Prop where
  pc : t.pc = s.pc
  wt : t.wt = s.wt
  sync : t.sync = s.sync
  evt : t.evt = s.evt
  dp : t.dp = s.dp
  dt : t.dt = s.dt

/-- 10_state.md R34: whatever a primitive step does to the units is a write that the rules give its operation. -/
theorem Performs.registerWrite {i : Instr} {s t : State} (h : Performs i s t) :
    ∃ u, RegisterWrite i s u ∧ SameUnits u t := by
  cases h with
  | frame hf hk h => exact ⟨s, .nothing i s, by rw [h.kept]; exact ⟨rfl, rfl, rfl, rfl, rfl, rfl⟩⟩
  | registers h hg hw => exact ⟨_, h, ⟨rfl, rfl, rfl, rfl, rfl, rfl⟩⟩
  | _ => exact ⟨s, .nothing i s, ⟨rfl, rfl, rfl, rfl, rfl, rfl⟩⟩

/-- Everything that a move of SEQ can be: no step, `raise Illegal` for bytes that are no command, or a primitive step
of the operation. -/
theorem seqStep_cases {s t : State} (h : seqStep s = .next t) :
    (s.seq.busy = false ∧ t = s) ∨
    (s.seq.busy = true ∧ (∃ e, s.fetched = .error e) ∧ t = s.deliver statusIllegal []) ∨
    (s.seq.busy = true ∧ ∃ i, s.fetched = .ok i ∧ Performs i s t) := by
  unfold seqStep at h
  cases hb : s.seq.busy with
  | false =>
    rw [hb] at h
    exact .inl ⟨rfl, by simpa using h.symm⟩
  | true =>
    rw [hb, if_pos rfl] at h
    cases hf : s.fetched with
    | error e =>
      rw [hf] at h
      exact .inr (.inl ⟨rfl, ⟨e, rfl⟩, by simpa using h.symm⟩)
    | ok i =>
      rw [hf] at h
      exact .inr (.inr ⟨rfl, i, rfl, performs_of_exec h⟩)

/-! ### Under the other moves -/

/-- EDGE: only the count and its flag. -/
theorem edgeStep_units (s : State) :
    (edgeStep s).pc = { s.pc with cnt := (edgeStep s).pc.cnt } ∧ (edgeStep s).wt = s.wt ∧
    (edgeStep s).sync = s.sync ∧ (edgeStep s).dt = s.dt := by
  rcases edgeStep_cases s with h | ⟨-, -, h | h⟩ <;> rw [h] <;> simp

/-- CLK: only the prescaler, the count and its flag. -/
theorem clkStep_units (s : State) :
    (clkStep s).pc = s.pc ∧ (clkStep s).wt = { s.wt with cnt := (clkStep s).wt.cnt } ∧
    (clkStep s).sync = { s.sync with psc := (clkStep s).sync.psc } ∧ (clkStep s).dt = s.dt := by
  rcases clkStep_cases s with ⟨-, h⟩ | ⟨-, h | ⟨-, h⟩⟩
  · simp [h]
  · simp [h]
  · rcases wtTick_cases { s with sync.psc := (s.sync.psc + 1) % 2 ^ s.cfg.pscBits } with h' | h' <;>
      rw [h, h'] <;> simp

/-- DT: only the count and its flag. -/
theorem dtStep_units (s : State) :
    (dtStep s).pc = s.pc ∧ (dtStep s).wt = s.wt ∧ (dtStep s).sync = s.sync ∧
    (dtStep s).dt = { s.dt with cnt := (dtStep s).dt.cnt } := by
  rcases dtStep_cases s with h | h <;> rw [h] <;> simp

/-- SPIENG: nothing but the link and the pin trace. -/
theorem engBitStep_kept (s : State) :
    engBitStep s = { s with spi := (engBitStep s).spi, out := (engBitStep s).out } := by
  rcases engBitStep_cases s with h | ⟨-, -, h⟩ <;> rw [h]
  rw [shiftPins_spec]

/-- The engine's move leaves the other units. -/
theorem engBitStep_sameUnits (s : State) : SameUnits s (engBitStep s) := by
  rw [engBitStep_kept]
  exact ⟨rfl, rfl, rfl, rfl, rfl, rfl⟩

/-- The acceptance of a command leaves the units. -/
theorem accept_sameUnits (bytes : List Byte) (s : State) : SameUnits s (s.accept bytes) := by
  constructor <;> simp

/-- Everything that a move other than RESET can do to the units other than the link: nothing, a write of the operation
in progress, or a step of EDGE, CLK or DT. -/
theorem takeMove_units {m : Move} {s t : State} (h : takeMove m s = .next t) (hm : m ≠ .reset) :
    SameUnits s t ∨
    (m = .seq ∧ s.seq.busy = true ∧ ∃ i u, s.fetched = .ok i ∧ RegisterWrite i s u ∧ SameUnits u t) ∨
    (m = .edge ∧ t = edgeStep s) ∨ (m = .clk ∧ t = clkStep s) ∨ (m = .dt ∧ t = dtStep s) := by
  cases m with
  | seq =>
    rcases seqStep_cases h with ⟨-, rfl⟩ | ⟨-, -, rfl⟩ | ⟨hb, i, hi, hp⟩
    · exact .inl ⟨rfl, rfl, rfl, rfl, rfl, rfl⟩
    · exact .inl ⟨rfl, rfl, rfl, rfl, rfl, rfl⟩
    · obtain ⟨u, hu, hut⟩ := hp.registerWrite
      exact .inr (.inl ⟨rfl, hb, i, u, hi, hu, hut⟩)
  | clk => exact .inr (.inr (.inr (.inl ⟨rfl, (Host.Outcome.next.inj h).symm⟩)))
  | edge => exact .inr (.inr (.inl ⟨rfl, (Host.Outcome.next.inj h).symm⟩))
  | dt => exact .inr (.inr (.inr (.inr ⟨rfl, (Host.Outcome.next.inj h).symm⟩)))
  | eng =>
    obtain rfl := Host.Outcome.next.inj h
    exact .inl (engBitStep_sameUnits s)
  | command bytes =>
    obtain rfl := Host.Outcome.next.inj h
    exact .inl (accept_sameUnits bytes s)
  | spiReady ready =>
    obtain rfl := Host.Outcome.next.inj h
    exact .inl ⟨rfl, rfl, rfl, rfl, rfl, rfl⟩
  | readOrder loFirst =>
    obtain rfl := Host.Outcome.next.inj h
    exact .inl ⟨rfl, rfl, rfl, rfl, rfl, rfl⟩
  | reset => exact absurd rfl hm

/-! ### The counters, the control registers and the shadow -/

/-- A value that is held on its way to the wire is that of a mutating driver operation. -/
theorem driver_of_holdsWiper {i : Instr} {k : Nat} (h : holdsWiper i k = true) :
    i = .dpInc ∨ i = .dpDec ∨ (∃ v, i = .dpSetNum v) ∨ ∃ text, i = .dpSetText text := by
  cases i <;> simp [holdsWiper] at h ⊢

/-- 10_state.md R34: the operations write the counters with 0, and only these do. -/
theorem RegisterWrite.counters {i : Instr} {s u : State} (h : RegisterWrite i s u) :
    (u.pc.cnt ≠ s.pc.cnt → u.pc.cnt = 0 ∧ (i = .pcEnable ∨ i = .pcClear ∨ i = .wtStart)) ∧
    (u.wt.cnt ≠ s.wt.cnt → u.wt.cnt = 0 ∧ (i = .wtClr ∨ i = .wtStart)) ∧
    (u.sync.psc ≠ s.sync.psc → u.sync.psc = 0 ∧ (i = .pscReset ∨ i = .wtStart)) ∧
    u.dt.cnt = s.dt.cnt := by
  cases h <;> simp

/-- 10_state.md R34: the operations that write each control register and the shadow. -/
theorem RegisterWrite.controls {i : Instr} {s u : State} (h : RegisterWrite i s u) :
    (u.pc.cmp ≠ s.pc.cmp → ∃ v, i = .pcSetcmp v) ∧
    (u.pc.run ≠ s.pc.run → i = .pcEnable ∨ i = .pcDisable) ∧
    (u.wt.cmp ≠ s.wt.cmp → ∃ v, i = .wtSetcmp v) ∧
    (u.wt.cs ≠ s.wt.cs → i = .wtInit ∨ i = .wtStop ∨ i = .wtStart ∨ ∃ v, i = .wtSetcs v) ∧
    (u.wt.ctc ≠ s.wt.ctc → i = .wtInit) ∧
    (u.wt.runcs ≠ s.wt.runcs → ∃ v, i = .wtSetruncs v) ∧
    (u.sync.hold ≠ s.sync.hold → i = .syncHold ∨ i = .syncRelease ∨ i = .wtStart) ∧
    (u.dp ≠ s.dp → i = .dpInc ∨ i = .dpDec ∨ (∃ v, i = .dpSetNum v) ∨ ∃ text, i = .dpSetText text) ∧
    (u.dt.run ≠ s.dt.run → i = .dtStart ∨ i = .dtStop) := by
  cases h with
  | shadow i s hw => simp [driver_of_holdsWiper hw]
  | _ => simp

/-- Settles O50: EDGE, CLK and DT count, and the operations' writes are those of `RegisterWrite.counters`. -/
theorem counterWriters : Obligations.CounterWriters := by
  intro m s t h hm
  rcases takeMove_units h hm with hu | ⟨rfl, -, i, u, hi, hw, hu⟩ | ⟨rfl, rfl⟩ | ⟨rfl, rfl⟩ | ⟨rfl, rfl⟩
  · simp [hu.pc, hu.wt, hu.sync, hu.dt]
  · simpa [hu.pc, hu.wt, hu.sync, hu.dt, hi] using hw.counters
  · obtain ⟨-, hwt, hsync, hdt⟩ := edgeStep_units s
    simp [hwt, hsync, hdt]
  · obtain ⟨hpc, -, -, hdt⟩ := clkStep_units s
    simp [hpc, hdt]
  · obtain ⟨hpc, hwt, hsync, -⟩ := dtStep_units s
    simp [hpc, hwt, hsync]

/-- Settles O51: the hardware writes none of them, and the operations' writes are those of
`RegisterWrite.controls`. -/
theorem controlRegisterWriters : Obligations.ControlRegisterWriters := by
  intro m s t h hm
  rcases takeMove_units h hm with hu | ⟨rfl, -, i, u, hi, hw, hu⟩ | ⟨rfl, rfl⟩ | ⟨rfl, rfl⟩ | ⟨rfl, rfl⟩
  · simp [hu.pc, hu.wt, hu.sync, hu.dp, hu.dt]
  · simpa [hu.pc, hu.wt, hu.sync, hu.dp, hu.dt, hi] using hw.controls
  · obtain ⟨hpc, hwt, hsync, hdt⟩ := edgeStep_units s
    rw [hpc, hwt, hsync, hdt, (edgeStep_hardwareMove s).dp]
    simp
  · obtain ⟨hpc, hwt, hsync, hdt⟩ := clkStep_units s
    rw [hpc, hwt, hsync, hdt, (clkStep_hardwareMove s).dp]
    simp
  · obtain ⟨hpc, hwt, hsync, hdt⟩ := dtStep_units s
    rw [hpc, hwt, hsync, hdt, (dtStep_hardwareMove s).dp]
    simp

/-! ### The event flags -/

/-- EDGE fires its flag only when the new count is the threshold (40_pulse_counter.md R100). -/
theorem edgeStep_evt (s : State) :
    (edgeStep s).evt = s.evt ∨
    ((edgeStep s).evt = (s.fireEvent pcEvt).evt ∧ (edgeStep s).pc.cnt = (edgeStep s).pc.cmp ∧
      s.pc.run = true ∧ s.sync.hold = false) := by
  rcases edgeStep_cases s with h | ⟨hr, hh, h | h⟩
  · simp [h]
  · simp [h]
  · by_cases hc : (s.pc.cnt + 1) % 2 ^ s.cfg.nPc = s.pc.cmp
    · exact .inr (by simp [h, hc, hr, hh])
    · exact .inl (by simp [edgeStep, hr, hh, hc])

/-- A tick fires its flag only when the new count is the compare value (41_window_timer.md R121). -/
theorem wtTick_evt (s : State) :
    (wtTick s).evt = s.evt ∨
    ((wtTick s).evt = (s.fireEvent wtEvt).evt ∧ (wtTick s).wt.cnt = (wtTick s).wt.cmp) := by
  by_cases hc : tickedCount s = s.wt.cmp
  · exact .inr (by simp [wtTick, hc])
  · exact .inl (by simp [wtTick, hc])

/-- CLK fires its flag only in a tick (41_window_timer.md R120). -/
theorem clkStep_evt (s : State) :
    (clkStep s).evt = s.evt ∨
    ((clkStep s).evt = (s.fireEvent wtEvt).evt ∧ (clkStep s).wt.cnt = (clkStep s).wt.cmp ∧
      s.wt.cs ≠ 0 ∧ s.sync.hold = false) := by
  rcases clkStep_cases s with ⟨-, h⟩ | ⟨hh, h | ⟨hcs, h⟩⟩ <;> rw [h]
  · exact .inl rfl
  · exact .inl rfl
  · refine (wtTick_evt _).imp id fun ⟨he, hc⟩ => ⟨?_, hc, hcs, hh⟩
    rw [he, fireEvent_evt, fireEvent_evt]

/-- DT fires its flag only on a wrap while it runs (45_display_tick.md R216). -/
theorem dtStep_evt (s : State) :
    (dtStep s).evt = s.evt ∨
    ((dtStep s).evt = (s.fireEvent dtEvt).evt ∧ (dtStep s).dt.cnt = 0 ∧ s.dt.run = true) := by
  by_cases hc : (s.dt.cnt + 1) % s.cfg.dtPeriod = 0 ∧ s.dt.run = true
  · exact .inr (by simp [dtStep, hc])
  · exact .inl (by simp only [dtStep, if_neg hc])

/-- 60_exceptions.md R234: of the operations only the clearing step of `EVT_ACK` writes the flags. -/
theorem RegisterWrite.evt {i : Instr} {s u : State} (h : RegisterWrite i s u) :
    u.evt = s.evt ∨ ∃ mask, i = .evtAck mask ∧ s.seq.step = 1 ∧ u.evt = ackedFlags s.evt mask := by
  cases h with
  | evtAck s v hk => exact .inr ⟨v, rfl, hk, State.setEvt_evt _ _⟩
  | _ => simp

/-- A flag survives an acknowledgement unless the mask has its bit. -/
theorem getLsbD_ackedFlags (evt : BitVec 3) (mask : Byte) (k : Nat) :
    (ackedFlags evt mask).getLsbD k = (evt.getLsbD k && !mask.getLsbD k) := by
  by_cases hk : k < 3
  · simp [ackedFlags, hk]
  · simp [ackedFlags, BitVec.getLsbD_of_ge evt k (by omega)]

/-- An event under the condition `c` leaves every flag that is set, and sets none but its own. -/
theorem flags_of_fired {s t : State} {i : Nat} {c : Prop} (hi : i < 3)
    (h : t.evt = s.evt ∨ (t.evt = (s.fireEvent i).evt ∧ c)) (k : Nat) :
    (s.evt.getLsbD k = true → t.evt.getLsbD k = true) ∧
    (t.evt.getLsbD k = true → s.evt.getLsbD k = false → k = i ∧ c) := by
  rcases h with he | ⟨he, hc⟩
  · simp +contextual [he]
  · rw [he, fireEvent_getLsbD i k hi]
    exact ⟨fun hs => by simp [hs], fun ht hs => ⟨by simpa [hs] using ht, hc⟩⟩

/-- What an operation does to the flags: it sets none, and clears one only by `EVT_ACK`. -/
theorem RegisterWrite.flags {i : Instr} {s u : State} (h : RegisterWrite i s u) (k : Nat) :
    (u.evt.getLsbD k = true → s.evt.getLsbD k = true) ∧
    (s.evt.getLsbD k = true → u.evt.getLsbD k = true ∨
      (s.seq.step = 1 ∧ ∃ mask, i = .evtAck mask ∧ mask.getLsbD k = true)) := by
  rcases h.evt with he | ⟨mask, rfl, hk, he⟩
  · simp +contextual [he]
  · rw [he, getLsbD_ackedFlags]
    cases hm : mask.getLsbD k <;> simp [hk, hm]

/-- Settles O47: a move of an operation clears flags by `EVT_ACK` at most, and EDGE, CLK and DT set their own. -/
theorem eventFlagsSetAndCleared : Obligations.EventFlagsSetAndCleared := by
  intro m s t h
  by_cases hm : m = .reset
  · obtain rfl : s.applyReset = t := Host.Outcome.next.inj (hm ▸ h)
    simp [hm]
  rcases takeMove_units h hm with hu | ⟨rfl, hb, i, u, hi, hw, hu⟩ | ⟨rfl, rfl⟩ | ⟨rfl, rfl⟩ | ⟨rfl, rfl⟩
  · simp +contextual [hu.evt]
  · rw [hu.evt]
    have hnew (k : Nat) (ht : u.evt.getLsbD k = true) (hs : s.evt.getLsbD k = false) : False := by
      simp [(hw.flags k).1 ht] at hs
    refine ⟨fun k hk _ => ((hw.flags k).2 hk).imp id fun ⟨hstep, mask, him, hbit⟩ =>
      ⟨rfl, hb, hstep, mask, him ▸ hi, hbit⟩, ?_⟩
    exact ⟨fun ht hs => (hnew 0 ht hs).elim, fun ht hs => (hnew 1 ht hs).elim, fun ht hs => (hnew 2 ht hs).elim⟩
  · have hf := flags_of_fired (by decide) (edgeStep_evt s)
    exact ⟨fun k hk _ => .inl ((hf k).1 hk), fun ht hs => ⟨rfl, ((hf 0).2 ht hs).2⟩,
      fun ht hs => absurd ((hf 1).2 ht hs).1 (by decide), fun ht hs => absurd ((hf 2).2 ht hs).1 (by decide)⟩
  · have hf := flags_of_fired (by decide) (clkStep_evt s)
    exact ⟨fun k hk _ => .inl ((hf k).1 hk), fun ht hs => absurd ((hf 0).2 ht hs).1 (by decide),
      fun ht hs => ⟨rfl, ((hf 1).2 ht hs).2⟩, fun ht hs => absurd ((hf 2).2 ht hs).1 (by decide)⟩
  · have hf := flags_of_fired (by decide) (dtStep_evt s)
    exact ⟨fun k hk _ => .inl ((hf k).1 hk), fun ht hs => absurd ((hf 0).2 ht hs).1 (by decide),
      fun ht hs => absurd ((hf 1).2 ht hs).1 (by decide), fun ht hs => ⟨rfl, ((hf 2).2 ht hs).2⟩⟩

/-! ## The invariant of the machine -/

/-! ### Legal parameters -/

/-- The conditions of 00_scope.md R6 that the registers rest on. -/
structure LegalParams (p : Params) : Prop where
  div : ∀ e ∈ p.div, e.1 ≤ 7
  pcCmpReset : p.pcCmpReset < 2 ^ p.nPc
  wtCmpReset : p.wtCmpReset < 2 ^ p.nWt
  wtRuncsReset : isKey p p.wtRuncsReset.toNat = true
  steps_pos : 1 ≤ p.steps
  steps_le : p.steps ≤ 1024
  wiperDefault : p.wiperDefault < p.steps
  shadowBits : 10 ≤ p.shadowBits
  dtPeriod : 1 ≤ p.dtPeriod

theorem legalParams_of_legal {p : Params} (h : p.legal = true) : LegalParams p := by
  simp only [Params.legal, Params.divLegal, Bool.and_eq_true, decide_eq_true_eq, List.all_eq_true,
    List.any_eq_true, beq_iff_eq] at h
  obtain ⟨⟨⟨⟨⟨⟨⟨⟨⟨⟨⟨-, -⟩, -⟩, -, hdiv⟩, hpc⟩, hwt⟩, ⟨c, d⟩, hmem, hkey⟩, hsteps⟩, -⟩, hwiper⟩, hshadow⟩, hdt⟩ := h
  exact ⟨fun e he => (hdiv e he).2.1, hpc, hwt, (isKey_iff _ _).mpr ⟨d, hkey ▸ hmem⟩, hsteps.1, hsteps.2,
    hwiper, hshadow, hdt⟩

/-- A wiper position fits the shadow register. -/
theorem LegalParams.lt_shadow {p : Params} (h : LegalParams p) {n : Nat} (hn : n < p.steps) :
    n < 2 ^ p.shadowBits := by
  have h10 : 2 ^ 10 ≤ 2 ^ p.shadowBits := Nat.pow_le_pow_right (by decide) h.shadowBits
  have := h.steps_le
  omega

/-- 00_scope.md R6: the keys of `DIV` have three bits, so the three bits that are stored of one are the key. -/
theorem LegalParams.key_extract {p : Params} (h : LegalParams p) {v : Byte} (hv : isKey p v.toNat = true) :
    (v.extractLsb' 0 3).toNat = v.toNat := by
  obtain ⟨d, hd⟩ := (isKey_iff _ _).mp hv
  have : v.toNat ≤ 7 := h.div _ hd
  rw [BitVec.extractLsb'_toNat, Nat.shiftRight_zero]
  exact Nat.mod_eq_of_lt (by omega)

/-! ### The registers within their widths -/

/-- What `State.registersInRange` says. -/
structure RegistersOk (s : State) : Prop where
  pcCnt : s.pc.cnt < 2 ^ s.cfg.nPc
  pcCmp : s.pc.cmp < 2 ^ s.cfg.nPc
  wtCnt : s.wt.cnt < 2 ^ s.cfg.nWt
  wtCmp : s.wt.cmp < 2 ^ s.cfg.nWt
  wtCs : s.wt.cs = 0 ∨ isKey s.cfg s.wt.cs.toNat = true
  wtRuncs : isKey s.cfg s.wt.runcs.toNat = true
  psc : s.sync.psc < 2 ^ s.cfg.pscBits
  dtCnt : s.dt.cnt < s.cfg.dtPeriod
  dp : s.dp.toNat < 2 ^ s.cfg.shadowBits

theorem registersInRange_iff {s : State} : s.registersInRange = true ↔ RegistersOk s := by
  simp only [State.registersInRange, Bool.and_eq_true, Bool.or_eq_true, decide_eq_true_eq]
  exact ⟨fun ⟨⟨⟨⟨⟨⟨⟨⟨a, b⟩, c⟩, d⟩, e⟩, f⟩, g⟩, h⟩, i⟩ => ⟨a, b, c, d, e, f, g, h, i⟩,
    fun ⟨a, b, c, d, e, f, g, h, i⟩ => ⟨⟨⟨⟨⟨⟨⟨⟨a, b⟩, c⟩, d⟩, e⟩, f⟩, g⟩, h⟩, i⟩⟩

/-- The registers of equal units under equal parameters. -/
theorem RegistersOk.of_sameUnits {s t : State} (h : RegistersOk s) (hc : t.cfg = s.cfg) (hu : SameUnits s t) :
    RegistersOk t := by
  constructor <;> simp only [hc, hu.pc, hu.wt, hu.sync, hu.dt, hu.dp]
  exacts [h.pcCnt, h.pcCmp, h.wtCnt, h.wtCmp, h.wtCs, h.wtRuncs, h.psc, h.dtCnt, h.dp]

/-- A write of the flags is no write of these registers. -/
theorem RegistersOk.setEvt {s : State} (h : RegistersOk s) (v : BitVec 3) : RegistersOk (s.setEvt v) := by
  rw [setEvt_spec]
  exact { h with }

/-- The three bits that `WT_SETRUNCS` and `WT_SETCS` store of a value that has passed its check are 0 or a key. -/
theorem isKey_extract {p : Params} (hl : LegalParams p) {v : Byte} (hv : isKey p v.toNat = true) :
    isKey p (v.extractLsb' 0 3).toNat = true := by rwa [hl.key_extract hv]

/-- Every write of an operation keeps the registers in range, an operand that is checked having passed. -/
theorem RegisterWrite.registersOk {i : Instr} {s u : State} (h : RegisterWrite i s u) (hl : LegalParams s.cfg)
    (hr : RegistersOk s) (hop : s.seq.step = 1 → reservedOperand s.cfg i = false) : RegistersOk u := by
  cases h with
  | nothing => exact hr
  | pcEnable => exact { hr with pcCnt := Nat.two_pow_pos _ }
  | pcDisable => exact { hr with }
  | pcClear => exact { hr with pcCnt := Nat.two_pow_pos _ }
  | pcSetcmp s v => exact { hr with pcCmp := Nat.mod_lt _ (Nat.two_pow_pos _) }
  | wtInit => exact { hr with wtCs := .inl rfl }
  | wtStartWindow => exact { hr with wtCnt := Nat.two_pow_pos _ }
  | wtStartHold => exact { hr with }
  | wtStartPulses => exact { hr with pcCnt := Nat.two_pow_pos _ }
  | wtStartSelect => exact { hr with wtCs := .inr hr.wtRuncs }
  | wtStartPrescaler => exact { hr with psc := Nat.two_pow_pos _ }
  | wtStartRelease => exact { hr with }
  | wtStop => exact { hr with wtCs := .inl rfl }
  | wtSetcmp s v => exact { hr with wtCmp := Nat.mod_lt _ (Nat.two_pow_pos _) }
  | wtSetruncs s v hk =>
    have hkey : isKey s.cfg v.toNat = true := by simpa [reservedOperand, badRunningSelect] using hop hk
    exact { hr with wtRuncs := isKey_extract hl hkey }
  | wtClr => exact { hr with wtCnt := Nat.two_pow_pos _ }
  | syncHold => exact { hr with }
  | wtSetcs s v hk =>
    have hkey : v = 0 ∨ isKey s.cfg v.toNat = true := by
      simpa [reservedOperand, badClockSelect, or_iff_not_imp_left] using hop hk
    refine { hr with wtCs := hkey.imp (fun h0 => ?_) (isKey_extract hl) }
    rw [h0]
    rfl
  | pscReset => exact { hr with psc := Nat.two_pow_pos _ }
  | syncRelease => exact { hr with }
  | shadow =>
    rcases storeShadow_cases s with ⟨hv, h⟩ | ⟨-, v, hv, h⟩ <;> rw [h] <;> exact { hr with dp := hv }
  | dtStart => exact { hr with }
  | dtStop => exact { hr with }
  | evtAck s v => exact hr.setEvt _

theorem edgeStep_registersOk {s : State} (hr : RegistersOk s) : RegistersOk (edgeStep s) := by
  have hcnt : RegistersOk { s with pc.cnt := (s.pc.cnt + 1) % 2 ^ s.cfg.nPc } :=
    { hr with pcCnt := Nat.mod_lt _ (Nat.two_pow_pos _) }
  rcases edgeStep_cases s with h | ⟨-, -, h | h⟩ <;> rw [h]
  exacts [hr, hcnt, hcnt.setEvt _]

theorem wtTick_registersOk {s : State} (hr : RegistersOk s) : RegistersOk (wtTick s) := by
  have hlt : tickedCount s < 2 ^ s.cfg.nWt := by
    unfold tickedCount
    split
    · exact Nat.two_pow_pos _
    · exact Nat.mod_lt _ (Nat.two_pow_pos _)
  have hcnt : RegistersOk { s with wt.cnt := tickedCount s } := { hr with wtCnt := hlt }
  rcases wtTick_cases s with h | h <;> rw [h]
  exacts [hcnt, hcnt.setEvt _]

theorem clkStep_registersOk {s : State} (hr : RegistersOk s) : RegistersOk (clkStep s) := by
  have hpsc : RegistersOk { s with sync.psc := (s.sync.psc + 1) % 2 ^ s.cfg.pscBits } :=
    { hr with psc := Nat.mod_lt _ (Nat.two_pow_pos _) }
  rcases clkStep_cases s with ⟨-, h⟩ | ⟨-, h | ⟨-, h⟩⟩ <;> rw [h]
  exacts [hr, hpsc, wtTick_registersOk hpsc]

theorem dtStep_registersOk {s : State} (hl : LegalParams s.cfg) (hr : RegistersOk s) : RegistersOk (dtStep s) := by
  have hcnt : RegistersOk { s with dt.cnt := (s.dt.cnt + 1) % s.cfg.dtPeriod } :=
    { hr with dtCnt := Nat.mod_lt _ hl.dtPeriod }
  rcases dtStep_cases s with h | h <;> rw [h]
  exacts [hcnt, hcnt.setEvt _]

theorem resetWith_registersOk {p : Params} (hl : LegalParams p) : RegistersOk (State.resetWith p) where
  pcCnt := Nat.two_pow_pos _
  pcCmp := hl.pcCmpReset
  wtCnt := Nat.two_pow_pos _
  wtCmp := hl.wtCmpReset
  wtCs := .inl rfl
  wtRuncs := hl.wtRuncsReset
  psc := Nat.two_pow_pos _
  dtCnt := hl.dtPeriod
  dp := Nat.lt_of_le_of_lt (Nat.mod_le _ _) (hl.lt_shadow hl.wiperDefault)

/-! ### The step index and the link -/

/-- What `State.linkInStep` says of a state inside a frame or not, at a wait step or not. -/
structure LinkAt (framed wait : Bool) (s : State) : Prop where
  sck : s.spi.sck = s.cfg.cpol
  cs : s.spi.cs = if framed then csActive s.cfg else csInactive s.cfg
  bitcnt : s.spi.bitcnt ≤ 8
  busy : s.spi.busy = true → wait = true ∧ s.spi.bitcnt < 8

theorem linkInStep_iff {s : State} :
    s.linkInStep = true ↔
      LinkAt (s.inProgress fun i => inFrame i s.seq.step) (s.inProgress fun i => isWait i s.seq.step) s := by
  simp only [State.linkInStep, Bool.and_eq_true, Bool.or_eq_true, decide_eq_true_eq, Bool.not_eq_true']
  constructor
  · rintro ⟨⟨⟨hsck, hcs⟩, hbit⟩, hbusy⟩
    exact ⟨hsck, hcs, hbit, fun hb => hbusy.resolve_left (by simp [hb])⟩
  · rintro ⟨hsck, hcs, hbit, hbusy⟩
    refine ⟨⟨⟨hsck, hcs⟩, hbit⟩, ?_⟩
    cases hb : s.spi.busy
    · exact .inl rfl
    · exact .inr (hbusy hb)

/-- The part of the invariant that speaks of the sequencer and the link. -/
def InStep (s : State) : Prop := s.stepInRange = true ∧ s.linkInStep = true

/-- An idle block: no byte in flight, chip-select inactive, the clock at its idle level. -/
theorem inStep_idle {s : State} (hb : s.seq.busy = false) : InStep s ↔ LinkAt false false s := by
  simp [InStep, State.stepInRange, linkInStep_iff, State.inProgress, hb]

/-- An accepted byte string that is no command, before `raise Illegal`. -/
theorem inStep_error {s : State} (hb : s.seq.busy = true) {e : DecodeError} (hf : s.fetched = .error e) :
    InStep s ↔ s.seq.step = 0 ∧ LinkAt false false s := by
  simp [InStep, State.stepInRange, linkInStep_iff, State.inProgress, hb, hf]

/-- An operation in progress. -/
theorem inStep_running {s : State} (hb : s.seq.busy = true) {i : Instr} (hf : s.fetched = .ok i) :
    InStep s ↔ (s.seq.step < stepCount s.cfg i ∧ (reservedOperand s.cfg i = true → s.seq.step = 0)) ∧
      LinkAt (inFrame i s.seq.step) (isWait i s.seq.step) s := by
  simp only [InStep, State.stepInRange, linkInStep_iff, State.inProgress, hb, hf, Bool.not_true, Bool.false_or,
    Bool.true_and, Bool.and_eq_true, Bool.or_eq_true, decide_eq_true_eq, Bool.not_eq_true', Bool.eq_false_iff,
    ne_eq, ← imp_iff_not_or]

theorem inv_iff {s : State} : s.Inv ↔ s.cfg.legal = true ∧ RegistersOk s ∧ InStep s := by
  rw [State.Inv, registersInRange_iff, InStep]

/-- A link that is at rest is at rest in any state with the same link and parameters. -/
theorem LinkAt.congr {f w : Bool} {s t : State} (h : LinkAt f w s) (hc : t.cfg = s.cfg) (hp : t.spi = s.spi) :
    LinkAt f w t := by
  constructor <;> simp only [hc, hp]
  exacts [h.sck, h.cs, h.bitcnt, h.busy]

/-- Moves that leave the sequencer and the link keep them in step. -/
theorem InStep.congr {s t : State} (h : InStep s) (hc : t.cfg = s.cfg) (hq : t.seq = s.seq) (hp : t.spi = s.spi) :
    InStep t := by
  simpa [InStep, State.stepInRange, State.linkInStep, State.inProgress, State.fetched, hc, hq, hp] using h

/-- An operation is decoded from the same bytes after each of its steps. -/
theorem Performs.fetched {i : Instr} {s t : State} (h : Performs i s t) : t.fetched = s.fetched := by
  obtain ⟨hcfg, -, hop, hspace⟩ := h.kept
  simp only [State.fetched, hcfg, hop, hspace]

/-- A frame of `n` bytes has `2 n + 2` steps. -/
theorem FrameStep.offset_le {s t : State} {n j : Nat} (h : FrameStep s n j t) : j ≤ 2 * n + 1 := by
  cases h <;> omega

/-- Outside the wait steps no byte is in flight. -/
theorem LinkAt.quiet {f : Bool} {s : State} (h : LinkAt f false s) : s.spi.busy = false :=
  Bool.eq_false_iff.mpr fun hb => Bool.false_ne_true (h.busy hb).1

/-- 43_spi_link.md R163: a step of the frame takes the link to where `SEQ_STEP` then stands. -/
theorem FrameStep.linkAt {i : Instr} {s t : State} {a n j : Nat} (h : FrameStep s n j t)
    (hf : frameAt i = some (a, n)) (hk : s.seq.step = a + j)
    (hlink : LinkAt (inFrame i s.seq.step) (isWait i s.seq.step) s) :
    LinkAt (inFrame i t.seq.step) (isWait i t.seq.step) t := by
  have hn := frameAt_bytes hf
  have hin (m : Nat) : inFrame i (a + m) = true ↔ 0 < m ∧ m ≤ 2 * n + 1 := by
    rw [inFrame_add hf, decide_eq_true_iff]
  have hnowait (m : Nat) (hm : ∀ l < n, m ≠ 2 * l + 2) : isWait i (a + m) = false :=
    Bool.eq_false_iff.mpr fun hw => by
      obtain ⟨l, hl, hml⟩ := (isWait_add_iff hf m).mp hw
      exact hm l hl hml
  rw [hk] at hlink
  cases h with
  | assertCs =>
    rw [hnowait 0 fun l _ => by omega] at hlink
    have hstep : inFrame i (s.seq.step + 1) = true := hk ▸ (hin 1).mpr (by omega)
    exact ⟨hlink.sck, by simp [hstep], hlink.bitcnt, fun hb => absurd (hlink.quiet.symm.trans hb) Bool.false_ne_true⟩
  | @loadByte l hl b =>
    rw [(hin (2 * l + 1)).mpr (by omega)] at hlink
    have hstep : inFrame i (s.seq.step + 1) = true := hk ▸ (hin (2 * l + 2)).mpr (by omega)
    have hwait : isWait i (s.seq.step + 1) = true := hk ▸ (isWait_add_iff hf (2 * l + 2)).mpr ⟨l, hl, rfl⟩
    exact ⟨hlink.sck, by simpa [hstep] using hlink.cs, Nat.zero_le _, fun _ => ⟨hwait, Nat.zero_lt_succ _⟩⟩
  | waiting hl hb => rwa [hk]
  | @waited l hl hb =>
    rw [(hin (2 * l + 2)).mpr (by omega)] at hlink
    have hstep : inFrame i (s.seq.step + 1) = true := hk ▸ (hin (2 * l + 3)).mpr (by omega)
    exact ⟨hlink.sck, by simpa [hstep] using hlink.cs, hlink.bitcnt,
      fun hb' => absurd (hb.symm.trans hb') Bool.false_ne_true⟩
  | releaseCs =>
    rw [hnowait (2 * n + 1) fun l _ => by omega] at hlink
    have hstep : inFrame i (s.seq.step + 1) = false :=
      hk ▸ Bool.eq_false_iff.mpr fun h => absurd ((hin (2 * n + 2)).mp h).2 (by omega)
    exact ⟨hlink.sck, by simp [hstep], hlink.bitcnt, fun hb => absurd (hlink.quiet.symm.trans hb) Bool.false_ne_true⟩

/-- A step outside the frame that goes on leaves a link at rest. -/
theorem GoesOn.inStep {i : Instr} {s t : State} (hg : GoesOn s.cfg i s.seq.step) (hb : s.seq.busy = true)
    (hf : s.fetched = .ok i) (hs : InStep s) (hc : t.cfg = s.cfg)
    (hq : t.seq.busy = true ∧ t.seq.step = s.seq.step + 1) (hp : t.spi = s.spi) (hft : t.fetched = .ok i) :
    InStep t := by
  obtain ⟨⟨-, hres⟩, hlink⟩ := (inStep_running hb hf).mp hs
  rw [hg.outside, isWait_of_not_inFrame hg.outside] at hlink
  rw [inStep_running hq.1 hft, hq.2, hc, hg.outside_succ, isWait_of_not_inFrame hg.outside_succ]
  refine ⟨⟨hg.last, fun hr => ?_⟩, hlink.congr hc hp⟩
  exact absurd ((hg.operand (hres hr)).symm.trans hr) Bool.false_ne_true

/-- The end of an operation leaves the block idle. -/
theorem inStep_of_ended {i : Instr} {s t : State} (ho : inFrame i s.seq.step = false) (hb : s.seq.busy = true)
    (hf : s.fetched = .ok i) (hs : InStep s) (hc : t.cfg = s.cfg) (hq : t.seq.busy = false) (hp : t.spi = s.spi) :
    InStep t := by
  obtain ⟨-, hlink⟩ := (inStep_running hb hf).mp hs
  rw [ho, isWait_of_not_inFrame ho] at hlink
  exact (inStep_idle hq).mpr (hlink.congr hc hp)

/-- Every primitive step of the operation in progress keeps the sequencer and the link in step. -/
theorem Performs.inStep {i : Instr} {s t : State} (h : Performs i s t) (hb : s.seq.busy = true)
    (hf : s.fetched = .ok i) (hs : InStep s) : InStep t := by
  have hft : t.fetched = .ok i := h.fetched.trans hf
  cases h with
  | @frame a n j _ hfr hk h =>
    obtain ⟨⟨hlt, -⟩, hlink⟩ := (inStep_running hb hf).mp hs
    have hbt : t.seq.busy = true := by rw [h.kept]; exact hb
    have hct : t.cfg = s.cfg := by rw [h.kept]
    have hstep : t.seq.step < stepCount s.cfg i := by
      have := frameAt_lt_stepCount hfr s.cfg
      have := h.offset_le
      rcases h.advances with ⟨ht, -⟩ | ⟨ht, -⟩
      · rwa [ht]
      · omega
    have hres := reservedOperand_of_frameAt hfr s.cfg
    exact (inStep_running hbt hft).mpr ⟨⟨hct ▸ hstep, by simp [hct, hres]⟩, h.linkAt hfr hk hlink⟩
  | keepValue v lf hg hv => exact hg.inStep hb hf hs rfl ⟨hb, rfl⟩ rfl hft
  | registers h hg hw =>
    obtain ⟨hcfg, -, hseq, hspi⟩ := h.kept
    exact hg.inStep hb hf hs hcfg (by simp [hseq, hb]) hspi hft
  | respond status value ho => exact inStep_of_ended ho hb hf hs rfl rfl rfl
  | endJob ho => exact inStep_of_ended ho hb hf hs rfl rfl rfl

/-! ### Every move keeps it -/

/-- Every primitive step of the operation in progress keeps the invariant. -/
theorem Performs.inv {i : Instr} {s t : State} (h : Performs i s t) (hb : s.seq.busy = true)
    (hf : s.fetched = .ok i) (hs : s.Inv) : t.Inv := by
  obtain ⟨hl, hr, hi⟩ := inv_iff.mp hs
  obtain ⟨⟨-, hres⟩, -⟩ := (inStep_running hb hf).mp hi
  obtain ⟨u, hu, hut⟩ := h.registerWrite
  have hop (hk : s.seq.step = 1) : reservedOperand s.cfg i = false :=
    Bool.eq_false_iff.mpr fun hr => absurd (hk.symm.trans (hres hr)) Nat.one_ne_zero
  have hru : RegistersOk u := hu.registersOk (legalParams_of_legal hl) hr hop
  exact inv_iff.mpr ⟨h.kept.1 ▸ hl, hru.of_sameUnits (h.kept.1.trans hu.kept.1.symm) hut, h.inStep hb hf hi⟩

theorem seqStep_inv {s t : State} (h : seqStep s = .next t) (hs : s.Inv) : t.Inv := by
  rcases seqStep_cases h with ⟨-, rfl⟩ | ⟨hb, ⟨e, he⟩, rfl⟩ | ⟨hb, i, hi, hp⟩
  · exact hs
  · obtain ⟨hl, hr, hi⟩ := inv_iff.mp hs
    obtain ⟨-, hlink⟩ := (inStep_error hb he).mp hi
    exact inv_iff.mpr ⟨hl, { hr with }, (inStep_idle rfl).mpr { hlink with }⟩
  · exact hp.inv hb hi hs

/-- A move of the hardware that keeps the registers in range keeps the invariant. -/
theorem HardwareMove.inv {s t : State} (h : HardwareMove s t) (hs : s.Inv) (hr : RegistersOk t) : t.Inv := by
  obtain ⟨hl, -, hi⟩ := inv_iff.mp hs
  exact inv_iff.mpr ⟨h.cfg ▸ hl, hr, hi.congr h.cfg h.seq h.spi⟩

/-- 43_spi_link.md R164: a bit step leaves the clock idle and the link inside its byte, or at its end. -/
theorem LinkAt.engBitStep {f w : Bool} {s : State} (h : LinkAt f w s) : LinkAt f w (engBitStep s) := by
  rcases engBitStep_cases s with he | ⟨hb, -, he⟩ <;> rw [he]
  · exact h
  · obtain ⟨hw, hlt⟩ := h.busy hb
    rw [shiftPins_spec]
    refine ⟨rfl, h.cs, hlt, fun hb' => ⟨hw, ?_⟩⟩
    have hne : s.spi.bitcnt + 1 ≠ 8 := of_decide_eq_true hb'
    exact Nat.lt_of_le_of_ne hlt hne

theorem engBitStep_inv {s : State} (hs : s.Inv) : (engBitStep s).Inv := by
  obtain ⟨hl, hr, hstep, hlink⟩ := inv_iff.mp hs
  have hcfg : (engBitStep s).cfg = s.cfg := by rw [engBitStep_kept]
  have hseq : (engBitStep s).seq = s.seq := by rw [engBitStep_kept]
  refine inv_iff.mpr ⟨hcfg ▸ hl, hr.of_sameUnits hcfg (engBitStep_sameUnits s), ?_, ?_⟩
  · simpa [State.stepInRange, State.fetched, hcfg, hseq] using hstep
  · rw [linkInStep_iff] at hlink ⊢
    simpa [State.inProgress, State.fetched, hcfg, hseq] using hlink.engBitStep

/-- Every operation has a first step. -/
theorem stepCount_pos (p : Params) (i : Instr) : 0 < stepCount p i := by
  cases i with
  | pcRead => simp only [stepCount]; split <;> decide
  | wtRead => simp only [stepCount]; split <;> decide
  | _ => exact Nat.zero_lt_succ _

/-- No operation begins inside its frame. -/
theorem inFrame_zero (i : Instr) : inFrame i 0 = false := by cases i <;> rfl

/-- 10_state.md R28: an idle sequencer takes the command. -/
theorem accept_seq_of_idle (bytes : List Byte) {s : State} (hb : s.seq.busy = false) :
    (s.accept bytes).seq = { s.seq with busy := true, op := bytes, step := 0, space := .host } := by
  simp [State.accept, hb]

/-- 70_reset_and_hazards.md R279: a busy sequencer takes none. -/
theorem accept_of_busy (bytes : List Byte) {s : State} (hb : s.seq.busy = true) : s.accept bytes = s := by
  simp [State.accept, hb]

/-- 10_state.md R28: a command is accepted before its first step, with the link at rest. -/
theorem accept_inv (bytes : List Byte) {s : State} (hs : s.Inv) : (s.accept bytes).Inv := by
  obtain ⟨hl, hr, hi⟩ := inv_iff.mp hs
  cases hb : s.seq.busy with
  | true => rwa [accept_of_busy bytes hb]
  | false =>
    have hseq := accept_seq_of_idle bytes hb
    have hbusy : (s.accept bytes).seq.busy = true := by rw [hseq]
    have hstep : (s.accept bytes).seq.step = 0 := by rw [hseq]
    have hlink : LinkAt false false (s.accept bytes) := ((inStep_idle hb).mp hi).congr (by simp) (by simp)
    refine inv_iff.mpr ⟨by simpa using hl, hr.of_sameUnits (by simp) (accept_sameUnits bytes s), ?_⟩
    cases hf : (s.accept bytes).fetched with
    | error e => exact (inStep_error hbusy hf).mpr ⟨hstep, hlink⟩
    | ok i =>
      rw [inStep_running hbusy hf, hstep, inFrame_zero, isWait_of_not_inFrame (inFrame_zero i)]
      exact ⟨⟨stepCount_pos _ i, fun _ => rfl⟩, hlink⟩

/-- 10_state.md R33: under legal parameters the state after reset meets the invariant. -/
theorem resetWith_inv {p : Params} (hl : p.legal = true) : (State.resetWith p).Inv :=
  inv_iff.mpr ⟨hl, resetWith_registersOk (legalParams_of_legal hl),
    (inStep_idle rfl).mpr ⟨rfl, rfl, Nat.zero_le _, fun h => absurd h Bool.false_ne_true⟩⟩

theorem applyReset_inv {s : State} (hl : s.cfg.legal = true) : s.applyReset.Inv :=
  resetWith_inv (p := s.cfg) hl

/-- Every move of every agent keeps the invariant. -/
theorem takeMove_inv {m : Move} {s t : State} (h : takeMove m s = .next t) (hs : s.Inv) : t.Inv := by
  obtain ⟨hl, hr, -⟩ := inv_iff.mp hs
  cases m with
  | seq => exact seqStep_inv h hs
  | clk =>
    obtain rfl := Host.Outcome.next.inj h
    exact (clkStep_hardwareMove s).inv hs (clkStep_registersOk hr)
  | edge =>
    obtain rfl := Host.Outcome.next.inj h
    exact (edgeStep_hardwareMove s).inv hs (edgeStep_registersOk hr)
  | eng =>
    obtain rfl := Host.Outcome.next.inj h
    exact engBitStep_inv hs
  | dt =>
    obtain rfl := Host.Outcome.next.inj h
    exact (dtStep_hardwareMove s).inv hs (dtStep_registersOk (legalParams_of_legal hl) hr)
  | command bytes =>
    obtain rfl := Host.Outcome.next.inj h
    exact accept_inv bytes hs
  | spiReady ready =>
    obtain rfl := Host.Outcome.next.inj h
    exact hs
  | readOrder loFirst =>
    obtain rfl := Host.Outcome.next.inj h
    exact hs
  | reset =>
    obtain rfl := Host.Outcome.next.inj h
    exact applyReset_inv hl

/-- Settles O54: a step is a move on the state without that move, of which the invariant does not speak. -/
theorem everyStepKeepsInvariant : Obligations.EveryStepKeepsInvariant := by
  intro s t hs h
  have hpop : s.popMove.Inv := hs
  exact takeMove_inv (step_eq s ▸ h) hpop

/-! ## The wiper invariant -/

/-- What `State.wiperInRange` says of an operation in progress. -/
structure WiperAt (i : Instr) (s : State) : Prop where
  operand : wiperOperandInRange s.cfg i = true
  text : textChecked s.cfg i s.seq.step = true
  value : holdsWiper i s.seq.step = true → s.seq.tmp.toNat < s.cfg.steps

theorem wiperInRange_iff {s : State} :
    s.wiperInRange = true ↔ s.dp.toNat < s.cfg.steps ∧
      (s.seq.busy = true → ∀ i, s.fetched = .ok i → WiperAt i s) := by
  rw [State.wiperInRange, Bool.and_eq_true, decide_eq_true_iff]
  refine and_congr_right fun _ => ?_
  cases hb : s.seq.busy with
  | false => simp
  | true =>
    cases hf : s.fetched with
    | error e => simp
    | ok i =>
      simp only [Bool.not_true, Bool.false_or, Bool.and_eq_true, Bool.or_eq_true, Bool.not_eq_true',
        decide_eq_true_eq, Except.ok.injEq, forall_const, forall_eq']
      constructor
      · rintro ⟨⟨hop, ht⟩, hv⟩
        exact ⟨hop, ht, fun hw => hv.resolve_left (by simp [hw])⟩
      · rintro ⟨hop, ht, hv⟩
        refine ⟨⟨hop, ht⟩, ?_⟩
        cases hw : holdsWiper i s.seq.step
        · exact .inl rfl
        · exact .inr (hv hw)

theorem wiperInRange_running {s : State} {i : Instr} (hb : s.seq.busy = true) (hf : s.fetched = .ok i) :
    s.wiperInRange = true ↔ s.dp.toNat < s.cfg.steps ∧ WiperAt i s := by
  simp [wiperInRange_iff, hb, hf]

theorem wiperInRange_idle {s : State} (hb : s.seq.busy = false) :
    s.wiperInRange = true ↔ s.dp.toNat < s.cfg.steps := by
  simp [wiperInRange_iff, hb]

/-- Moves that leave the shadow and the sequencer keep the wiper invariant. -/
theorem wiperInRange_congr {s t : State} (h : s.wiperInRange = true) (hc : t.cfg = s.cfg) (hd : t.dp = s.dp)
    (hq : t.seq = s.seq) : t.wiperInRange = true := by
  simpa [State.wiperInRange, State.fetched, hc, hd, hq] using h

/-- 44_digipot.md R186 to R190, R193: the value that a driver operation is about to write is a wiper position, if its
operand is in range and its text has been checked. -/
theorem wiperTarget_lt {i : Instr} {s : State} {k : Nat} (hl : LegalParams s.cfg) (hd : s.dp.toNat < s.cfg.steps)
    (hop : wiperOperandInRange s.cfg i = true) (ht : textChecked s.cfg i k = true) (hw : holdsWiper i k = true) :
    wiperTarget i s < s.cfg.steps := by
  have hpos := hl.steps_pos
  rcases driver_of_holdsWiper hw with rfl | rfl | ⟨v, rfl⟩ | ⟨text, rfl⟩
  · simp only [wiperTarget, incremented]
    omega
  · simp only [wiperTarget, decremented]
    omega
  · exact of_decide_eq_true hop
  · simp only [textChecked, holdsWiper, badTextValue, Bool.or_eq_true, Bool.not_eq_true', decide_eq_true_eq,
      decide_eq_false_iff_not] at ht hw
    simp only [wiperTarget]
    omega

/-- A write of registers leaves the shadow a wiper position, if the value on its way to the wire is one. -/
theorem RegisterWrite.shadow_lt {i : Instr} {s u : State} (h : RegisterWrite i s u) (hl : LegalParams s.cfg)
    (hd : s.dp.toNat < s.cfg.steps) (hv : holdsWiper i s.seq.step = true → s.seq.tmp.toNat < s.cfg.steps) :
    u.dp.toNat < s.cfg.steps := by
  cases h with
  | shadow i s hw => exact (congrArg BitVec.toNat (s.storeShadow_dp_of_fits (hl.lt_shadow (hv hw)))).trans_lt (hv hw)
  | evtAck s v hk => simpa using hd
  | _ => exact hd

/-- A step of the frame writes neither the value nor the shadow. -/
theorem FrameStep.wiperAt {i : Instr} {s t : State} {a n j : Nat} (h : FrameStep s n j t)
    (hf : frameAt i = some (a, n)) (hk : s.seq.step = a + j) (hw : WiperAt i s) : WiperAt i t := by
  rcases h.advances with ⟨rfl, -⟩ | ⟨hstep, -⟩
  · exact hw
  have hcfg : t.cfg = s.cfg := by rw [h.kept]
  have htmp : t.seq.tmp = s.seq.tmp := by rw [h.kept]
  constructor <;> rw [hcfg]
  · exact hw.operand
  · rw [hstep, hk]
    exact textChecked_succ_frame hf _ j (hk ▸ hw.text)
  · rw [hstep, hk, htmp]
    exact fun hh => hw.value (hk ▸ holdsWiper_of_succ_frame hf h.offset_le hh)

/-- Every primitive step of the operation in progress keeps the wiper invariant. -/
theorem Performs.wiperInRange {i : Instr} {s t : State} (h : Performs i s t) (hl : LegalParams s.cfg)
    (hb : s.seq.busy = true) (hf : s.fetched = .ok i) (hs : s.wiperInRange = true) : t.wiperInRange = true := by
  obtain ⟨hd, hw⟩ := (wiperInRange_running hb hf).mp hs
  have hft : t.fetched = .ok i := h.fetched.trans hf
  cases h with
  | frame hfr hk h =>
    have hbt : t.seq.busy = true := by rw [h.kept]; exact hb
    refine (wiperInRange_running hbt hft).mpr ⟨?_, h.wiperAt hfr hk hw⟩
    rw [h.kept]
    exact hd
  | keepValue v lf hg hv =>
    refine (wiperInRange_running (by exact hb) hft).mpr ⟨hd, hw.operand, hg.text hw.text, fun hh => ?_⟩
    have hlt := wiperTarget_lt hl hd hw.operand (hg.text hw.text) hh
    rw [hv hh, BitVec.toNat_ofNat]
    exact (Nat.mod_le _ _).trans_lt hlt
  | @registers u h hg hno =>
    obtain ⟨hcfg, -, hseq, -⟩ := h.kept
    have hstep : u.advance.seq.step = s.seq.step + 1 := by simp [hseq]
    refine (wiperInRange_running (by simp [hseq, hb]) hft).mpr ⟨?_, ?_⟩
    · exact hcfg ▸ h.shadow_lt hl hd hw.value
    · constructor
      · exact hcfg ▸ hw.operand
      · rw [hstep]
        exact hcfg ▸ hg.text hw.text
      · simp [hseq, hno]
  | respond status value ho => exact (wiperInRange_idle rfl).mpr hd
  | endJob ho => exact (wiperInRange_idle rfl).mpr hd

theorem seqStep_wiperInRange {s t : State} (h : seqStep s = .next t) (hl : LegalParams s.cfg)
    (hs : s.wiperInRange = true) : t.wiperInRange = true := by
  rcases seqStep_cases h with ⟨-, rfl⟩ | ⟨-, -, rfl⟩ | ⟨hb, i, hi, hp⟩
  · exact hs
  · exact (wiperInRange_idle rfl).mpr (wiperInRange_iff.mp hs).1
  · exact hp.wiperInRange hl hb hi hs

/-- 70_reset_and_hazards.md R270: a command whose numeric operand is in range is accepted before any value is held. -/
theorem accept_wiperInRange {bytes : List Byte} {s : State} (hm : (Move.command bytes).keepsWiperRange s.cfg = true)
    (hs : s.wiperInRange = true) : (s.accept bytes).wiperInRange = true := by
  cases hb : s.seq.busy with
  | true => rwa [accept_of_busy bytes hb]
  | false =>
    have hseq := accept_seq_of_idle bytes hb
    have hfetched : (s.accept bytes).fetched = decodeCommand bytes := by
      simp only [State.fetched, hseq, decode]
    refine wiperInRange_iff.mpr ⟨by simpa using (wiperInRange_idle hb).mp hs, fun _ i hi => ?_⟩
    rw [Move.keepsWiperRange, ← hfetched, hi] at hm
    constructor <;> rw [State.accept_cfg]
    · exact hm
    · rw [hseq]
      cases i <;> rfl
    · rw [hseq]
      cases i <;> simp [holdsWiper]

/-- 10_state.md R33: the wiper position at reset is a wiper position. -/
theorem resetWith_wiperInRange {p : Params} (hl : LegalParams p) : (State.resetWith p).wiperInRange = true :=
  (wiperInRange_idle rfl).mpr ((Nat.mod_le _ _).trans_lt hl.wiperDefault)

/-- Every move that presents no operand out of range keeps the wiper invariant. -/
theorem takeMove_wiperInRange {m : Move} {s t : State} (h : takeMove m s = .next t) (hl : LegalParams s.cfg)
    (hm : m.keepsWiperRange s.cfg = true) (hs : s.wiperInRange = true) : t.wiperInRange = true := by
  cases m with
  | seq => exact seqStep_wiperInRange h hl hs
  | clk =>
    obtain rfl := Host.Outcome.next.inj h
    have hw := clkStep_hardwareMove s
    exact wiperInRange_congr hs hw.cfg hw.dp hw.seq
  | edge =>
    obtain rfl := Host.Outcome.next.inj h
    have hw := edgeStep_hardwareMove s
    exact wiperInRange_congr hs hw.cfg hw.dp hw.seq
  | eng =>
    obtain rfl := Host.Outcome.next.inj h
    rw [engBitStep_kept]
    exact hs
  | dt =>
    obtain rfl := Host.Outcome.next.inj h
    have hw := dtStep_hardwareMove s
    exact wiperInRange_congr hs hw.cfg hw.dp hw.seq
  | command bytes =>
    obtain rfl := Host.Outcome.next.inj h
    exact accept_wiperInRange hm hs
  | spiReady ready =>
    obtain rfl := Host.Outcome.next.inj h
    exact hs
  | readOrder loFirst =>
    obtain rfl := Host.Outcome.next.inj h
    exact hs
  | reset =>
    obtain rfl := Host.Outcome.next.inj h
    exact resetWith_wiperInRange (p := s.cfg) hl

/-- Settles O42: a step is a move on the state without that move, of which the wiper invariant does not speak. -/
theorem shadowStaysInRange : Obligations.ShadowStaysInRange := by
  intro s t hinv hs hm h
  have hpop : s.popMove.wiperInRange = true := hs
  rw [step_eq] at h
  exact takeMove_wiperInRange h (legalParams_of_legal hinv.1) hm hpop

/-! ## Commands, their placement, and reset -/

/-- Settles O9: the placed bytes are what the next move, SEQ's, decodes. -/
theorem placedInstructionRunsNext : Obligations.PlacedInstructionRunsNext := by
  intro s nbits w i hi
  rw [step_cons (ms := s.env.inputs) rfl]
  exact seqStep_of_fetched rfl hi

/-- Settles O10: the next move is the acceptance of the command. -/
theorem commandAcceptedOnlyWhenIdle : Obligations.CommandAcceptedOnlyWhenIdle := by
  intro s ms bytes hinputs
  rw [step_cons hinputs]
  constructor
  · intro hb
    simp [takeMove, State.accept, hb]
  · intro hb
    exact congrArg Host.Outcome.next (accept_of_busy (s := { s with env.inputs := ms }) bytes hb)

/-- Settles O52: the reset state of the parameters, with the observations and the environment kept. -/
theorem resetRestores : Obligations.ResetRestores := fun s =>
  ⟨s.applyReset, rfl, rfl, rfl, rfl, rfl, rfl, rfl, rfl, rfl, rfl, rfl, rfl, rfl⟩

/-- At reset the receiver has seen nothing, and the pins are as it starts. -/
theorem resetWith_receiverAgrees (p : Params) : (State.resetWith p).receiverAgrees = true := by
  simp [State.receiverAgrees, State.resetWith, Receiver.start, csActive]

/-- Settles O53: the three invariants at reset under any legal parameters, the default ones among them. -/
theorem resetMeetsInvariant : Obligations.ResetMeetsInvariant :=
  ⟨resetWith_inv (by decide), fun p hl =>
    ⟨resetWith_inv hl, resetWith_wiperInRange (legalParams_of_legal hl), resetWith_receiverAgrees p⟩⟩

end Sys2Proof.Machine

/-! ## Reads of the counters

20_memory.md R56: a counter of at most 8 bits is read in one sample, a wider one in two byte samples, and what another
agent does between them shows in the answer. -/

namespace Sys2Proof.Machine

/-! ### The bytes of an answer -/

theorem hiByte_ofNat (c : Nat) : hiByte (BitVec.ofNat 16 c) = BitVec.ofNat 8 (c / 256) := by
  apply BitVec.eq_of_toNat_eq
  simp only [hiByte, BitVec.extractLsb'_toNat, BitVec.toNat_ofNat, Nat.shiftRight_eq_div_pow]
  omega

theorem loByte_ofNat (c : Nat) : loByte (BitVec.ofNat 16 c) = BitVec.ofNat 8 (c % 256) := by
  apply BitVec.eq_of_toNat_eq
  simp only [loByte, BitVec.extractLsb'_toNat, BitVec.toNat_ofNat, Nat.shiftRight_zero]
  omega

/-- 20_memory.md R55: the value bytes of a 16-bit answer. -/
theorem wordValue_ofNat (c : Nat) :
    wordValue (BitVec.ofNat 16 c) = [BitVec.ofNat 8 (c / 256), BitVec.ofNat 8 (c % 256)] := by
  rw [wordValue, wordBytes, hiByte_ofNat, loByte_ofNat]

theorem getLsbD_joinBytes (hi lo : Byte) (k : Nat) :
    (joinBytes hi lo).getLsbD k = if k < 8 then lo.getLsbD k else hi.getLsbD (k - 8) := by
  rw [joinBytes, BitVec.getLsbD_append]

/-- The value bytes of two bytes joined are those bytes. -/
theorem wordValue_joinBytes (hi lo : Byte) : wordValue (joinBytes hi lo) = [hi, lo] := by
  have hhi : hiByte (joinBytes hi lo) = hi := by
    ext k hk
    simp [hiByte, ← BitVec.getLsbD_eq_getElem, getLsbD_joinBytes, hk]
  have hlo : loByte (joinBytes hi lo) = lo := by
    ext k hk
    simp [loByte, ← BitVec.getLsbD_eq_getElem, getLsbD_joinBytes, hk]
  rw [wordValue, wordBytes, hhi, hlo]

/-- A word that has the high byte of the `n`-bit value `a` and the low byte of `b` is, cut to `n` bits, these bytes
joined. -/
theorem masked_eq_joinBytes {n : Nat} {w a b : Word} (hn : 8 < n) (ha : a.toNat < 2 ^ n)
    (hlo : ∀ k < 8, w.getLsbD k = b.getLsbD k)
    (hhi : ∀ k < 16, 8 ≤ k → k < n → w.getLsbD k = a.getLsbD k) :
    w &&& widthMask n = joinBytes (hiByte a) (loByte b) := by
  ext k hk
  rw [← BitVec.getLsbD_eq_getElem, ← BitVec.getLsbD_eq_getElem, BitVec.getLsbD_and, getLsbD_widthMask n k hk,
    getLsbD_joinBytes]
  by_cases hk8 : k < 8
  · have hkn : k < n := by omega
    simp [hk8, hkn, hlo k hk8, loByte]
  · have hle : 8 ≤ k := by omega
    have hbyte : (hiByte a).getLsbD (k - 8) = a.getLsbD k := by
      have hlt : k - 8 < 8 := by omega
      simp [hiByte, hlt, hle]
    rw [if_neg hk8, hbyte]
    by_cases hkn : k < n
    · simp [hkn, hhi k hk hle hkn]
    · have hpow : a.toNat < 2 ^ k := Nat.lt_of_lt_of_le ha (Nat.pow_le_pow_right (by decide) (by omega))
      simp [hkn, BitVec.getLsbD, Nat.testBit_lt_two_pow hpow]

/-- 20_memory.md R56: the answer of two byte samples joins the byte of the first, taken of `a`, and that of the second,
taken of `b`. -/
theorem samples_masked {n : Nat} {a b : Word} (hn : 8 < n) (ha : a.toNat < 2 ^ n) (hb : b.toNat < 2 ^ n)
    (loFirst : Bool) (tmp : Word) :
    sample (!loFirst) n b (sample loFirst n a tmp) &&& widthMask n =
      if loFirst = true then joinBytes (hiByte b) (loByte a) else joinBytes (hiByte a) (loByte b) := by
  cases loFirst with
  | true =>
    refine masked_eq_joinBytes hn hb (fun k hk => ?_) fun k hk hle hkn => ?_
    · have hlt : ¬(8 ≤ k ∧ k < n) := by omega
      simp [sample, getLsbD_sampleHigh n _ _ k (by omega), getLsbD_sampleLow _ _ k (by omega), hlt, hk]
    · simp [sample, getLsbD_sampleHigh n _ _ k hk, hle, hkn]
  | false =>
    refine masked_eq_joinBytes hn ha (fun k hk => ?_) fun k hk hle hkn => ?_
    · simp [sample, getLsbD_sampleLow _ _ k (by omega : k < 16), hk]
    · have hlt : ¬k < 8 := by omega
      simp [sample, getLsbD_sampleHigh n _ _ k hk, getLsbD_sampleLow _ _ k hk, hlt, hle, hkn]

/-- The value bytes of a read whose first sample found the count `c` and whose second found `c'`. -/
theorem wordValue_samples {n c c' : Nat} (hn : 8 < n) (hc : c < 2 ^ n) (hc' : c' < 2 ^ n) (loFirst : Bool)
    (tmp : Word) :
    wordValue (sample (!loFirst) n (BitVec.ofNat 16 c') (sample loFirst n (BitVec.ofNat 16 c) tmp) &&& widthMask n) =
      if loFirst = true then [BitVec.ofNat 8 (c' / 256), BitVec.ofNat 8 (c % 256)]
      else [BitVec.ofNat 8 (c / 256), BitVec.ofNat 8 (c' % 256)] := by
  have hlt {x : Nat} (hx : x < 2 ^ n) : (BitVec.ofNat 16 x).toNat < 2 ^ n :=
    Nat.lt_of_le_of_lt (Nat.mod_le _ _) hx
  rw [samples_masked hn (hlt hc) (hlt hc'), apply_ite wordValue, wordValue_joinBytes, wordValue_joinBytes,
    hiByte_ofNat, hiByte_ofNat, loByte_ofNat, loByte_ofNat]

/-! ### The steps of a read -/

section Read

variable {i : Instr} {s : State} {n c : Nat}

/-- The only sample of a counter of at most 8 bits. -/
theorem exec_read_whole (hi : primStepsOf i s = readSteps n c) (hn : n ≤ 8) (hk : s.seq.step = 0) :
    exec i s = .next (s.setTmp (BitVec.ofNat 16 c)).advance := by
  rw [exec_eq_performStep, hi, readSteps, if_pos hn]
  exact performStep_of_getElem? (f := write fun s => s.setTmp (BitVec.ofNat 16 c)) (by rw [hk]; rfl)

/-- The answer of a counter of at most 8 bits. -/
theorem exec_read_answerWhole (hi : primStepsOf i s = readSteps n c) (hn : n ≤ 8) (hk : s.seq.step = 1) :
    exec i s = .next (s.deliver statusOk (wordValue s.seq.tmp)) := by
  rw [exec_eq_performStep, hi, readSteps, if_pos hn]
  exact performStep_of_getElem? (f := respond fun s => wordValue s.seq.tmp) (by rw [hk]; rfl)

/-- The first sample of a wider counter. -/
theorem exec_read_first (hi : primStepsOf i s = readSteps n c) (hn : 8 < n) (hk : s.seq.step = 0) :
    exec i s = sampleFirst n c s := by
  rw [exec_eq_performStep, hi, readSteps, if_neg (Nat.not_le.mpr hn)]
  exact performStep_of_getElem? (by rw [hk]; rfl)

/-- The second sample of a wider counter. -/
theorem exec_read_second (hi : primStepsOf i s = readSteps n c) (hn : 8 < n) (hk : s.seq.step = 1) :
    exec i s = sampleSecond n c s := by
  rw [exec_eq_performStep, hi, readSteps, if_neg (Nat.not_le.mpr hn)]
  exact performStep_of_getElem? (by rw [hk]; rfl)

/-- The answer of a wider counter. -/
theorem exec_read_answer (hi : primStepsOf i s = readSteps n c) (hn : 8 < n) (hk : s.seq.step = 2) :
    exec i s = .next (s.deliver statusOk (wordValue (s.seq.tmp &&& widthMask n))) := by
  rw [exec_eq_performStep, hi, readSteps, if_neg (Nat.not_le.mpr hn)]
  exact performStep_of_getElem? (f := respond fun s => wordValue (s.seq.tmp &&& widthMask n)) (by rw [hk]; rfl)

end Read

/-! ### What the moves of the other agents leave alone -/

/-- 10_state.md R24: no move changes the parameters. -/
theorem takeMove_cfg {m : Move} {s t : State} (h : takeMove m s = .next t) : t.cfg = s.cfg := by
  cases m with
  | seq =>
    rcases seqStep_cases h with ⟨-, rfl⟩ | ⟨-, -, rfl⟩ | ⟨-, i, -, hp⟩
    · rfl
    · rfl
    · exact hp.kept.1
  | clk => exact Host.Outcome.next.inj h ▸ (clkStep_hardwareMove s).cfg
  | edge => exact Host.Outcome.next.inj h ▸ (edgeStep_hardwareMove s).cfg
  | dt => exact Host.Outcome.next.inj h ▸ (dtStep_hardwareMove s).cfg
  | eng =>
    obtain rfl := Host.Outcome.next.inj h
    rw [engBitStep_kept]
  | command bytes =>
    obtain rfl := Host.Outcome.next.inj h
    simp
  | spiReady ready => exact Host.Outcome.next.inj h ▸ rfl
  | readOrder loFirst => exact Host.Outcome.next.inj h ▸ rfl
  | reset => exact Host.Outcome.next.inj h ▸ rfl

/-- The engine delivers no response. -/
theorem engBitStep_responses (s : State) : (engBitStep s).out.responses = s.out.responses := by
  rcases engBitStep_cases s with h | ⟨-, -, h⟩ <;> rw [h]
  rw [shiftPins_spec]

/-- 10_state.md R28: while an operation is in progress the other agents leave the sequencer and deliver no response. -/
theorem takeMove_of_busy {m : Move} {s : State} (hb : s.seq.busy = true) (hseq : m ≠ .seq) (hreset : m ≠ .reset) :
    ∃ t, takeMove m s = .next t ∧ t.seq = s.seq ∧ t.out.responses = s.out.responses := by
  cases m with
  | seq => exact absurd rfl hseq
  | clk => exact ⟨_, rfl, (clkStep_hardwareMove s).seq, (clkStep_hardwareMove s).responses⟩
  | edge => exact ⟨_, rfl, (edgeStep_hardwareMove s).seq, (edgeStep_hardwareMove s).responses⟩
  | dt => exact ⟨_, rfl, (dtStep_hardwareMove s).seq, (dtStep_hardwareMove s).responses⟩
  | eng => exact ⟨_, rfl, by rw [engBitStep_kept], engBitStep_responses s⟩
  | command bytes => exact ⟨s, congrArg Host.Outcome.next (accept_of_busy bytes hb), rfl, rfl⟩
  | spiReady ready => exact ⟨_, rfl, rfl, rfl⟩
  | readOrder loFirst => exact ⟨_, rfl, rfl, rfl⟩
  | reset => exact absurd rfl hreset

/-- 20_memory.md R56: a read writes no register. -/
theorem RegisterWrite.eq_of_read {i : Instr} {s u : State} (h : RegisterWrite i s u)
    (hi : i = .pcRead ∨ i = .wtRead) : u = s := by
  rcases hi with rfl | rfl <;> cases h with
  | nothing => rfl
  | shadow _ _ hw => exact absurd hw Bool.false_ne_true

/-- While a read is in progress only EDGE, CLK and DT change the units. -/
theorem takeMove_units_of_read {m : Move} {i : Instr} {s t : State} (h : takeMove m s = .next t) (hm : m ≠ .reset)
    (hf : s.fetched = .ok i) (hi : i = .pcRead ∨ i = .wtRead) :
    SameUnits s t ∨ t = edgeStep s ∨ t = clkStep s ∨ t = dtStep s := by
  rcases takeMove_units h hm with hu | ⟨-, -, j, u, hj, hw, hu⟩ | ⟨-, rfl⟩ | ⟨-, rfl⟩ | ⟨-, rfl⟩
  · exact .inl hu
  · obtain rfl : i = j := Except.ok.inj (hf.symm.trans hj)
    obtain rfl := hw.eq_of_read hi
    exact .inl hu
  · exact .inr (.inl rfl)
  · exact .inr (.inr (.inl rfl))
  · exact .inr (.inr (.inr rfl))

/-! ### A read of a counter that stands still -/

/-- The Pulse Counter of `u` is that of `s`, and it is stopped or held. -/
structure PulseStill (s u : State) : Prop where
  cfg : u.cfg = s.cfg
  pc : u.pc = s.pc
  still : u.pc.run = false ∨ u.sync.hold = true

/-- The Window Timer of `u` is that of `s`, and it is stopped or held. -/
structure WindowStill (s u : State) : Prop where
  cfg : u.cfg = s.cfg
  wt : u.wt = s.wt
  still : u.wt.cs = 0 ∨ u.sync.hold = true

/-- 40_pulse_counter.md R100: a Pulse Counter that is stopped or held stands still while it is read. -/
theorem PulseStill.takeMove {m : Move} {s u t : State} (hs : PulseStill s u) (hf : u.fetched = .ok .pcRead)
    (hm : m ≠ .reset) (h : takeMove m u = .next t) : PulseStill s t := by
  have hcfg := (takeMove_cfg h).trans hs.cfg
  rcases takeMove_units_of_read h hm hf (.inl rfl) with hu | rfl | rfl | rfl
  · exact ⟨hcfg, hu.pc.trans hs.pc, by rw [hu.pc, hu.sync]; exact hs.still⟩
  · have he : edgeStep u = u := hs.still.elim edgeStep_of_stopped edgeStep_of_hold
    rwa [he]
  · obtain ⟨hpc, -, hsync, -⟩ := clkStep_units u
    exact ⟨hcfg, hpc.trans hs.pc, by rw [hpc, hsync]; exact hs.still⟩
  · obtain ⟨hpc, -, hsync, -⟩ := dtStep_units u
    exact ⟨hcfg, hpc.trans hs.pc, by rw [hpc, hsync]; exact hs.still⟩

/-- 41_window_timer.md R120: a base-clock period does not tick a timer that is stopped or held. -/
theorem clkStep_wt_of_still {s : State} (h : s.wt.cs = 0 ∨ s.sync.hold = true) : (clkStep s).wt = s.wt := by
  rcases clkStep_cases s with ⟨-, he⟩ | ⟨hh, he | ⟨hcs, -⟩⟩
  · rw [he]
  · rw [he]
  · exact (h.elim hcs (Bool.eq_false_iff.mp hh)).elim

/-- 41_window_timer.md R120: a Window Timer that is stopped or held stands still while it is read. -/
theorem WindowStill.takeMove {m : Move} {s u t : State} (hs : WindowStill s u) (hf : u.fetched = .ok .wtRead)
    (hm : m ≠ .reset) (h : takeMove m u = .next t) : WindowStill s t := by
  have hcfg := (takeMove_cfg h).trans hs.cfg
  rcases takeMove_units_of_read h hm hf (.inr rfl) with hu | rfl | rfl | rfl
  · exact ⟨hcfg, hu.wt.trans hs.wt, by rw [hu.wt, hu.sync]; exact hs.still⟩
  · obtain ⟨-, hwt, hsync, -⟩ := edgeStep_units u
    exact ⟨hcfg, hwt.trans hs.wt, by rw [hwt, hsync]; exact hs.still⟩
  · have hwt := clkStep_wt_of_still hs.still
    obtain ⟨-, -, hsync, -⟩ := clkStep_units u
    exact ⟨hcfg, hwt.trans hs.wt, by rw [hwt, hsync]; exact hs.still⟩
  · obtain ⟨-, hwt, hsync, -⟩ := dtStep_units u
    exact ⟨hcfg, hwt.trans hs.wt, by rw [hwt, hsync]; exact hs.still⟩

/-- What the sequencer holds after `k` steps of the read of an `n`-bit counter that stays at `c`. -/
inductive Sampled (n c : Nat) : Nat → Sequencer → Prop
  | none (q : Sequencer) : Sampled n c 0 q
  | whole {q : Sequencer} (hn : n ≤ 8) (h : q.tmp = BitVec.ofNat 16 c) : Sampled n c 1 q
  | first {q : Sequencer} (hn : 8 < n) (tmp : Word) (h : q.tmp = sample q.loFirst n (BitVec.ofNat 16 c) tmp) :
      Sampled n c 1 q
  | both {q : Sequencer} (hn : 8 < n) (loFirst : Bool) (tmp : Word)
      (h : q.tmp = sample (!loFirst) n (BitVec.ofNat 16 c) (sample loFirst n (BitVec.ofNat 16 c) tmp)) :
      Sampled n c 2 q

/-- The read `i` of an `n`-bit counter that stays at `c` is in progress, `k` of its steps are done, and the responses
delivered so far are `rs`. -/
structure Reading (i : Instr) (n c : Nat) (rs : List (List Byte)) (k : Nat) (u : State) : Prop where
  busy : u.seq.busy = true
  fetched : u.fetched = .ok i
  step : u.seq.step = k
  responses : u.out.responses = rs
  sampled : Sampled n c k u.seq

/-- The read of a counter that stood at `c` has ended with the answer `c`. -/
structure AnswersCount (c : Nat) (rs : List (List Byte)) (t : State) : Prop where
  busy : t.seq.busy = false
  responses : t.out.responses = [0x00, BitVec.ofNat 8 (c / 256), BitVec.ofNat 8 (c % 256)] :: rs

section Still

variable {i : Instr} {n c k : Nat} {rs : List (List Byte)} {u : State}

/-- A move of SEQ takes the next sample, or answers the count if it was the last. -/
theorem Reading.seq (h : Reading i n c rs k u) (hi : primStepsOf i u = readSteps n c) (hc : c < 2 ^ n) :
    ∃ t, takeMove .seq u = .next t ∧
      ((k + 1 < (if n ≤ 8 then 2 else 3) ∧ Reading i n c rs (k + 1) t) ∨
       (k + 1 = (if n ≤ 8 then 2 else 3) ∧ AnswersCount c rs t)) := by
  obtain ⟨hb, hf, hk, hr, hs⟩ := h
  have hexec : takeMove .seq u = exec i u := seqStep_of_fetched hb hf
  cases hs with
  | none =>
    by_cases hn : n ≤ 8
    · exact ⟨_, hexec.trans (exec_read_whole hi hn hk),
        .inl ⟨by simp [hn], hb, hf, congrArg (· + 1) hk, hr, .whole hn rfl⟩⟩
    · have hn' : 8 < n := Nat.not_le.mp hn
      exact ⟨_, hexec.trans (exec_read_first hi hn' hk),
        .inl ⟨by simp [hn], hb, hf, congrArg (· + 1) hk, hr, .first hn' u.seq.tmp rfl⟩⟩
  | whole hn htmp =>
    refine ⟨_, hexec.trans (exec_read_answerWhole hi hn hk), .inr ⟨by simp [hn], rfl, ?_⟩⟩
    simp [htmp, wordValue_ofNat, hr, statusOk]
  | first hn tmp htmp =>
    refine ⟨_, hexec.trans (exec_read_second hi hn hk),
      .inl ⟨by simp [Nat.not_le.mpr hn], hb, hf, congrArg (· + 1) hk, hr, .both hn u.seq.loFirst tmp ?_⟩⟩
    simp [htmp]
  | both hn loFirst tmp htmp =>
    refine ⟨_, hexec.trans (exec_read_answer hi hn hk), .inr ⟨by simp [Nat.not_le.mpr hn], rfl, ?_⟩⟩
    simp [htmp, wordValue_samples hn hc hc, hr, statusOk]

/-- A move of another agent leaves the read where it is. -/
theorem Reading.other {m : Move} (h : Reading i n c rs k u) (hseq : m ≠ .seq) (hreset : m ≠ .reset) :
    ∃ t, takeMove m u = .next t ∧ Reading i n c rs k t := by
  obtain ⟨hb, hf, hk, hr, hs⟩ := h
  obtain ⟨t, ht, hq, hr'⟩ := takeMove_of_busy hb hseq hreset
  have hft : t.fetched = u.fetched := by simp only [State.fetched, takeMove_cfg ht, hq]
  exact ⟨t, ht, hq ▸ hb, hft.trans hf, hq ▸ hk, hr'.trans hr, hq ▸ hs⟩

/-- Under a condition `P` that the moves keep and under which the counter is at `c`, the read answers `c` for every
interleaving of the other agents with its steps. -/
theorem Reading.run {P : State → Prop} (hread : ∀ u, P u → primStepsOf i u = readSteps n c)
    (hkeep : ∀ m u t, P u → u.fetched = .ok i → m ≠ .reset → takeMove m u = .next t → P t) (hc : c < 2 ^ n)
    {ms : List Move} (hreset : .reset ∉ ms) (h : Reading i n c rs k u) (hu : P u)
    (hcount : k + ms.count .seq + 1 = (if n ≤ 8 then 2 else 3)) :
    ∃ t, runMoves (ms ++ [.seq]) u = .next (t.withInputs []) ∧ P t ∧ AnswersCount c rs t := by
  induction ms generalizing u k with
  | nil =>
    obtain ⟨t, ht, ⟨hlt, -⟩ | ⟨-, hans⟩⟩ := h.seq (hread u hu) hc
    · simp only [List.count_nil] at hcount
      omega
    · refine ⟨t, ?_, hkeep _ _ _ hu h.fetched (by simp) ht, hans⟩
      rw [List.nil_append, runMoves_cons, ht]
      rfl
  | cons m ms ih =>
    obtain ⟨hm, hms⟩ := not_or.mp (mt List.mem_cons.mpr hreset)
    have hkeep' {t : State} (ht : takeMove m u = .next t) : P t := hkeep m u t hu h.fetched (Ne.symm hm) ht
    rw [List.cons_append, runMoves_cons]
    by_cases hseq : m = .seq
    · subst hseq
      rw [List.count_cons_self] at hcount
      obtain ⟨t, ht, ⟨-, hnext⟩ | ⟨hlast, -⟩⟩ := h.seq (hread u hu) hc
      · rw [ht]
        exact ih hms hnext (hkeep' ht) (by omega)
      · omega
    · rw [List.count_cons_of_ne hseq] at hcount
      obtain ⟨t, ht, hnext⟩ := h.other hseq (Ne.symm hm)
      rw [ht]
      exact ih hms hnext (hkeep' ht) hcount

end Still

/-- Settles O30: the counter stands still under every move, so both samples are of the same count. -/
theorem stoppedCounterReadsExactly : Obligations.StoppedCounterReadsExactly := by
  intro s ms hb hk hms
  constructor
  · intro hf _ hc hstill hcount
    have hstart : Reading .pcRead s.cfg.nPc s.pc.cnt s.out.responses 0 s := ⟨hb, hf, hk, rfl, .none _⟩
    obtain ⟨t, ht, hp, hans⟩ := hstart.run (P := PulseStill s)
      (fun u hu => by rw [← hu.cfg, ← hu.pc]; rfl) (fun _ _ _ hu hf hm h => hu.takeMove hf hm h) hc hms
      ⟨rfl, rfl, hstill⟩ (by rwa [Nat.zero_add])
    exact ⟨_, ht, hp.pc, hans.busy, hans.responses⟩
  · intro hf _ hc hstill hcount
    have hstart : Reading .wtRead s.cfg.nWt s.wt.cnt s.out.responses 0 s := ⟨hb, hf, hk, rfl, .none _⟩
    obtain ⟨t, ht, hp, hans⟩ := hstart.run (P := WindowStill s)
      (fun u hu => by rw [← hu.cfg, ← hu.wt]; rfl) (fun _ _ _ hu hf hm h => hu.takeMove hf hm h) hc hms
      ⟨rfl, rfl, hstill⟩ (by rwa [Nat.zero_add])
    exact ⟨_, ht, hp.wt, hans.busy, hans.responses⟩

/-! ### An edge between the two samples -/

/-- 40_pulse_counter.md R100: an edge counts while the unit runs and is not held. -/
theorem edgeStep_cnt {s : State} (hr : s.pc.run = true) (hh : s.sync.hold = false) :
    (edgeStep s).pc.cnt = (s.pc.cnt + 1) % 2 ^ s.cfg.nPc := by
  by_cases hc : (s.pc.cnt + 1) % 2 ^ s.cfg.nPc = s.pc.cmp <;> simp [edgeStep, hr, hh, hc]

/-- `s` after the first sample of a Pulse Counter of more than 8 bits. -/
def pulseSampled (s : State) : State :=
  { s with
    seq.loFirst := s.env.loFirst
    seq.tmp := sample s.env.loFirst s.cfg.nPc (BitVec.ofNat 16 s.pc.cnt) s.seq.tmp
    seq.step := s.seq.step + 1 }

/-- 40_pulse_counter.md R105: the first step of `PC_READ`. -/
theorem takeMove_pcRead_first {s : State} (hb : s.seq.busy = true) (hf : s.fetched = .ok .pcRead)
    (hk : s.seq.step = 0) (hn : 8 < s.cfg.nPc) : takeMove .seq s = .next (pulseSampled s) :=
  (seqStep_of_fetched hb hf).trans (exec_read_first rfl hn hk)

/-- 40_pulse_counter.md R105: the rest of `PC_READ`, with no other move in between. -/
theorem runMoves_pcRead_second {s : State} {v : Word} (hb : s.seq.busy = true) (hf : s.fetched = .ok .pcRead)
    (hk : s.seq.step = 1) (hn : 8 < s.cfg.nPc)
    (hv : sample (!s.seq.loFirst) s.cfg.nPc (BitVec.ofNat 16 s.pc.cnt) s.seq.tmp = v) :
    runMoves [.seq, .seq] s =
      .next (((s.setTmp v).advance.deliver statusOk (wordValue (v &&& widthMask s.cfg.nPc))).withInputs []) := by
  have hsecond : takeMove .seq s = .next (s.setTmp v).advance :=
    hv ▸ (seqStep_of_fetched hb hf).trans (exec_read_second rfl hn hk)
  have hanswer : takeMove .seq (s.setTmp v).advance =
      .next ((s.setTmp v).advance.deliver statusOk (wordValue (v &&& widthMask s.cfg.nPc))) :=
    (seqStep_of_fetched (s := (s.setTmp v).advance) hb hf).trans (exec_read_answer rfl hn (congrArg (· + 1) hk))
  rw [runMoves_cons, hsecond, andThen, runMoves_cons, hanswer]
  rfl

/-- Settles O31: the first sample is of the count before the edge and the second of the count after it. -/
theorem tornPulseCounterRead : Obligations.TornPulseCounterRead := by
  intro s c' hb hf hk hn _ hc hr hh hc'
  have hmove := edgeStep_hardwareMove (pulseSampled s)
  have hcnt : (edgeStep (pulseSampled s)).pc.cnt = c' := (edgeStep_cnt (s := pulseSampled s) hr hh).trans hc'.symm
  have hlt : c' < 2 ^ s.cfg.nPc := hc' ▸ Nat.mod_lt _ (Nat.two_pow_pos _)
  have hfetched : (edgeStep (pulseSampled s)).fetched = .ok .pcRead := by
    rw [State.fetched, hmove.cfg, hmove.seq]
    exact hf
  have hrun : runMoves [.seq, .edge, .seq, .seq] s = runMoves [.seq, .seq] (edgeStep (pulseSampled s)) := by
    rw [runMoves_cons, takeMove_pcRead_first hb hf hk hn, andThen, runMoves_cons]
    rfl
  refine ⟨_, hrun.trans (runMoves_pcRead_second (hmove.seq ▸ hb) hfetched ?_ (hmove.cfg ▸ hn) rfl), hcnt, ?_⟩
  · rw [hmove.seq]
    exact congrArg (· + 1) hk
  · change (statusOk :: wordValue _) :: (edgeStep (pulseSampled s)).out.responses = _
    rw [hmove.seq, hmove.cfg, hcnt, hmove.responses]
    have hvalue := wordValue_samples hn hc hlt s.env.loFirst s.seq.tmp
    refine congrArg (· :: s.out.responses) ((congrArg (statusOk :: ·) hvalue).trans ?_)
    exact apply_ite (statusOk :: ·) _ _ _

end Sys2Proof.Machine

/-! ## The encoding

30_encoding.md R71 to R82: the operand formats, the opcode map and the layout of a wire word, each said once; that
decoding and encoding are inverse to each other, and the answer to bytes that are no command, are read off. -/

namespace Sys2Proof.Machine

/-! ### The formats of the operands -/

/-- `bytes` are the encoding of the well-formed instruction `i` of the space `sp`. -/
structure Encodes (p : Params) (sp : EncodingSpace) (bytes : List Byte) (i : Instr) : Prop where
  encoding : encode p i = bytes
  space : i.space = sp
  wellFormed : i.wellFormed = true

/-- 30_encoding.md R71: `read` reads the bytes after `opcode` in the given format, and what it reads is encoded by
`opcode` and these bytes. -/
inductive ReadsFormat (p : Params) (opcode : Byte) : Format → (List Byte → Except DecodeError Instr) → Prop
  | op0 {i : Instr} (h : Encodes p .host [opcode] i) : ReadsFormat p opcode .op0 (formatOp0 i)
  | op1 {f : Byte → Instr} (h : ∀ v, Encodes p .host [opcode, v] (f v)) :
      ReadsFormat p opcode .op1 (formatOp1 f)
  | op2 {f : Word → Instr} (h : ∀ w, Encodes p .host (opcode :: wordBytes w) (f w)) :
      ReadsFormat p opcode .op2 (formatOp2 f)
  | opt {f : List Byte → Instr} (h : ∀ text, text.length ≤ 255 →
      Encodes p .host (opcode :: BitVec.ofNat 8 text.length :: text) (f text)) :
      ReadsFormat p opcode .opt (formatOpt f)

/-- 20_memory.md R53: two bytes joined and taken apart again. -/
theorem wordBytes_joinBytes (hi lo : Byte) : wordBytes (joinBytes hi lo) = [hi, lo] := wordValue_joinBytes hi lo

theorem formatOp2_wordBytes (f : Word → Instr) (w : Word) : formatOp2 f (wordBytes w) = .ok (f w) := by
  simp only [wordBytes, formatOp2, joinBytes_bytes]

theorem formatOpt_text (f : List Byte → Instr) {text : List Byte} (h : text.length ≤ 255) :
    formatOpt f (BitVec.ofNat 8 text.length :: text) = .ok (f text) := by
  have hlen : text.length = (BitVec.ofNat 8 text.length).toNat := by
    rw [BitVec.toNat_ofNat]; omega
  rw [formatOpt, if_pos hlen]

section ReadsFormat

variable {p : Params} {opcode : Byte} {f : Format} {read : List Byte → Except DecodeError Instr}

/-- 30_encoding.md R71, R72: what operand bytes are read as is encoded by them. -/
theorem ReadsFormat.encodes (h : ReadsFormat p opcode f read) {operands : List Byte} {i : Instr}
    (hi : read operands = .ok i) : Encodes p .host (opcode :: operands) i := by
  cases h with
  | op0 h =>
    match operands, hi with
    | [], rfl => exact h
  | op1 h =>
    match operands, hi with
    | [v], rfl => exact h v
  | op2 h =>
    match operands, hi with
    | [high, low], rfl => exact wordBytes_joinBytes high low ▸ h (joinBytes high low)
  | opt h =>
    match operands with
    | [] => cases hi
    | len :: text =>
      by_cases hlen : text.length = len.toNat
      · obtain rfl := Except.ok.inj ((if_pos hlen).symm.trans hi)
        have h' := h text (by omega)
        rwa [hlen, BitVec.ofNat_toNat, BitVec.setWidth_eq] at h'
      · cases (if_neg hlen).symm.trans hi

/-- 30_encoding.md R76: operand bytes are read exactly when the command has the length that its format requires. -/
theorem ReadsFormat.length (h : ReadsFormat p opcode f read) (operands : List Byte) :
    (operands.length + 1 = requiredLength f operands ∧ ∃ i, read operands = .ok i) ∨
    (operands.length + 1 ≠ requiredLength f operands ∧ read operands = .error .wrongLength) := by
  cases h with
  | op0 h =>
    match operands with
    | [] => exact .inl ⟨rfl, _, rfl⟩
    | _ :: _ => exact .inr ⟨by simp [requiredLength], rfl⟩
  | op1 h =>
    match operands with
    | [] => exact .inr ⟨by simp [requiredLength], rfl⟩
    | [_] => exact .inl ⟨rfl, _, rfl⟩
    | _ :: _ :: _ => exact .inr ⟨by simp [requiredLength], rfl⟩
  | op2 h =>
    match operands with
    | [] | [_] => exact .inr ⟨by simp [requiredLength], rfl⟩
    | [_, _] => exact .inl ⟨rfl, _, rfl⟩
    | _ :: _ :: _ :: _ => exact .inr ⟨by simp [requiredLength], rfl⟩
  | opt h =>
    match operands with
    | [] => exact .inr ⟨by simp [requiredLength], rfl⟩
    | len :: text =>
      have hreq : requiredLength .opt (len :: text) = 2 + len.toNat := rfl
      rw [hreq, List.length_cons]
      by_cases hlen : text.length = len.toNat
      · exact .inl ⟨by omega, _, if_pos hlen⟩
      · exact .inr ⟨by omega, if_neg hlen⟩

end ReadsFormat

/-! ### The opcode map -/

/-- 30_encoding.md R74: each row of the opcode map reads its format, and what it reads has that opcode. -/
theorem readsFormat_of_mem (p : Params) {opcode : Byte} {f : Format} (h : (opcode, f) ∈ hostOpcodes) :
    ReadsFormat p opcode f (decodeOperands opcode) := by
  have hrows : ∀ row ∈ hostOpcodes, ReadsFormat p row.1 row.2 (decodeOperands row.1) := by
    simp only [hostOpcodes, List.forall_mem_cons]
    exact ⟨
      -- 0x01 to 0x05: the Pulse Counter
      .op0 ⟨rfl, rfl, rfl⟩, .op0 ⟨rfl, rfl, rfl⟩, .op0 ⟨rfl, rfl, rfl⟩, .op0 ⟨rfl, rfl, rfl⟩,
      .op2 fun _ => ⟨rfl, rfl, rfl⟩,
      -- 0x10 to 0x15: the Window Timer
      .op0 ⟨rfl, rfl, rfl⟩, .op0 ⟨rfl, rfl, rfl⟩, .op0 ⟨rfl, rfl, rfl⟩, .op0 ⟨rfl, rfl, rfl⟩,
      .op2 fun _ => ⟨rfl, rfl, rfl⟩, .op1 fun _ => ⟨rfl, rfl, rfl⟩,
      -- 0x20 to 0x24: the synchronized start
      .op0 ⟨rfl, rfl, rfl⟩, .op0 ⟨rfl, rfl, rfl⟩, .op1 fun _ => ⟨rfl, rfl, rfl⟩, .op0 ⟨rfl, rfl, rfl⟩,
      .op0 ⟨rfl, rfl, rfl⟩,
      -- 0x30, 0x31: the SPI Link
      .op1 fun _ => ⟨rfl, rfl, rfl⟩, .op2 fun _ => ⟨rfl, rfl, rfl⟩,
      -- 0x40 to 0x44: the Digital Potentiometer Driver
      .op0 ⟨rfl, rfl, rfl⟩, .op0 ⟨rfl, rfl, rfl⟩, .opt fun _ hlen => ⟨rfl, rfl, decide_eq_true hlen⟩,
      .op2 fun _ => ⟨rfl, rfl, rfl⟩, .op0 ⟨rfl, rfl, rfl⟩,
      -- 0x50, 0x51: the Display Tick Timer; 0x60, 0x61: the events
      .op0 ⟨rfl, rfl, rfl⟩, .op0 ⟨rfl, rfl, rfl⟩, .op0 ⟨rfl, rfl, rfl⟩, .op1 fun _ => ⟨rfl, rfl, rfl⟩,
      List.forall_mem_nil _⟩
  exact hrows _ h

/-- 30_encoding.md R75: an opcode outside the map is read as nothing. -/
theorem decodeOperands_reserved {opcode : Byte} (h : opcode ∉ hostOpcodes.map (·.1)) (operands : List Byte) :
    decodeOperands opcode operands = .error (.reservedOpcode opcode) := by
  have hne {n : Nat} (hn : BitVec.ofNat 8 n ∈ hostOpcodes.map (·.1)) : opcode.toNat ≠ n := by
    rintro rfl
    exact h (by simpa using hn)
  unfold decodeOperands
  split
  case h_28 => rfl
  all_goals
    rename_i hopcode
    exact absurd hopcode (hne (by decide))

/-- 30_encoding.md R71, R74: a byte string that is read as a host command is that command's encoding. -/
theorem decodeCommand_encodes (p : Params) {bytes : List Byte} {i : Instr} (h : decodeCommand bytes = .ok i) :
    Encodes p .host bytes i := by
  cases bytes with
  | nil => cases h
  | cons opcode operands =>
    by_cases hop : opcode ∈ hostOpcodes.map (·.1)
    · obtain ⟨⟨_, f⟩, hrow, rfl⟩ := List.mem_map.mp hop
      exact (readsFormat_of_mem p hrow).encodes h
    · cases (decodeOperands_reserved hop operands).symm.trans h

/-- 30_encoding.md R71, R72, R74: the encoding of a well-formed host command is read as that command. -/
theorem decodeCommand_encode (p : Params) {i : Instr} (hs : i.space = .host) (hw : i.wellFormed = true) :
    decodeCommand (encode p i) = .ok i := by
  cases i with
  | pcSetcmp v | wtSetcmp v | spiWrite16 v | dpSetNum v => exact formatOp2_wordBytes _ v
  | dpSetText text => exact formatOpt_text _ (of_decide_eq_true hw)
  | wireWrite a d | wireIncr a d | wireDecr a d | wireRead a d => cases hs
  | _ => rfl

/-! ### The layout of a wire word -/

section WireWord

variable (a : BitVec 4) (c : BitVec 2) (d : BitVec 10)

/-- 30_encoding.md R80: the word as a sum. -/
theorem wireWord_toNat : (wireWord a c d).toNat = a.toNat * 4096 + c.toNat * 1024 + d.toNat := by
  rw [wireWord, BitVec.toNat_append, ← Nat.shiftLeft_add_eq_or_of_lt d.isLt, BitVec.toNat_append,
    ← Nat.shiftLeft_add_eq_or_of_lt c.isLt, Nat.shiftLeft_eq, Nat.shiftLeft_eq]
  omega

theorem wireAddr_wireWord : wireAddr (wireWord a c d) = a := by
  apply BitVec.eq_of_toNat_eq
  rw [wireAddr, BitVec.extractLsb'_toNat, wireWord_toNat, Nat.shiftRight_eq_div_pow]
  omega

theorem wireCmd_wireWord : wireCmd (wireWord a c d) = c := by
  apply BitVec.eq_of_toNat_eq
  rw [wireCmd, BitVec.extractLsb'_toNat, wireWord_toNat, Nat.shiftRight_eq_div_pow]
  omega

theorem wireData_wireWord : wireData (wireWord a c d) = d := by
  apply BitVec.eq_of_toNat_eq
  rw [wireData, BitVec.extractLsb'_toNat, wireWord_toNat, Nat.shiftRight_zero]
  omega

/-- The high byte of a wire word: its address, its command-type code and the top two bits of its data. -/
theorem hiByte_wireWord : hiByte (wireWord a c d) = a ++ c ++ d.extractLsb' 8 2 := by
  apply BitVec.eq_of_toNat_eq
  rw [hiByte, BitVec.extractLsb'_toNat, wireWord_toNat, Nat.shiftRight_eq_div_pow, BitVec.toNat_append,
    ← Nat.shiftLeft_add_eq_or_of_lt (BitVec.isLt _), BitVec.toNat_append, ← Nat.shiftLeft_add_eq_or_of_lt c.isLt,
    BitVec.extractLsb'_toNat, Nat.shiftLeft_eq, Nat.shiftLeft_eq, Nat.shiftRight_eq_div_pow]
  omega

/-- The low byte of a wire word: the other eight bits of its data. -/
theorem loByte_wireWord : loByte (wireWord a c d) = d.extractLsb' 0 8 := by
  apply BitVec.eq_of_toNat_eq
  rw [loByte, BitVec.extractLsb'_toNat, BitVec.extractLsb'_toNat, wireWord_toNat, Nat.shiftRight_zero,
    Nat.shiftRight_zero]
  omega

end WireWord

/-- 30_encoding.md R78: a word is made of its three fields. -/
theorem wireWord_fields (w : Word) : wireWord (wireAddr w) (wireCmd w) (wireData w) = w := by
  apply BitVec.eq_of_toNat_eq
  simp only [wireWord_toNat, wireAddr, wireCmd, wireData, BitVec.extractLsb'_toNat, Nat.shiftRight_eq_div_pow]
  omega

/-- 30_encoding.md R80, R81: `DpEncode` is the word of its address, its code and the low ten bits of its value. -/
theorem dpEncode_eq_wireWord (a : BitVec 4) (c : BitVec 2) (v : Word) :
    dpEncode a c v = wireWord a c (v.extractLsb' 0 10) := dpEncode_eq_append a c v

/-- 30_encoding.md R78: two bytes that are read as a wire word are that word's encoding. -/
theorem decodeWire_encodes {p : Params} {bytes : List Byte} {i : Instr} (h : decodeWire p bytes = .ok i) :
    Encodes p .wire bytes i := by
  unfold decodeWire at h
  split at h
  · next hi lo =>
    have hbytes {c : BitVec 2} (hc : wireCmd (joinBytes hi lo) = c) :
        wordBytes (wireWord (wireAddr (joinBytes hi lo)) c (wireData (joinBytes hi lo))) = [hi, lo] := by
      rw [← hc, wireWord_fields, wordBytes_joinBytes]
    dsimp only at h
    split_ifs at h with hwrite hincr hdecr hread <;> obtain rfl := Except.ok.inj h
    · exact ⟨hbytes hwrite, rfl, rfl⟩
    · exact ⟨hbytes hincr, rfl, rfl⟩
    · exact ⟨hbytes hdecr, rfl, rfl⟩
    · exact ⟨hbytes hread, rfl, rfl⟩
  · cases h

/-- 30_encoding.md R78, R79: under distinct command-type codes the two bytes of a wire word are read as that word. -/
theorem decodeWire_encode {p : Params} (hp : p.codesDistinct = true) {i : Instr} (hs : i.space = .wire) :
    decodeWire p (encode p i) = .ok i := by
  have hcodes := of_decide_eq_true hp
  simp only [List.nodup_cons, List.mem_cons, List.not_mem_nil, or_false, not_or] at hcodes
  obtain ⟨⟨hwi, hwd, hwr⟩, ⟨hid, hir⟩, hdr, -⟩ := hcodes
  cases i with
  | wireWrite a d | wireIncr a d | wireDecr a d | wireRead a d =>
    simp [encode, wordBytes, decodeWire, joinBytes_bytes, wireAddr_wireWord, wireCmd_wireWord, wireData_wireWord,
      Ne.symm hwi, Ne.symm hwd, Ne.symm hwr, Ne.symm hid, Ne.symm hir, Ne.symm hdr]
  | _ => cases hs

/-! ### Decoding and encoding -/

/-- What a byte string of either space is read as is encoded by it. -/
theorem decode_encodes {p : Params} {sp : EncodingSpace} {bytes : List Byte} {i : Instr}
    (h : decode p sp bytes = .ok i) : Encodes p sp bytes i := by
  cases sp with
  | host => exact decodeCommand_encodes p h
  | wire => exact decodeWire_encodes h

/-- Settles O1: in either space, a host command by its format and a wire word by its code. -/
theorem decodeEncodeRoundTrip : Obligations.DecodeEncodeRoundTrip := by
  intro p i hp hw
  cases hs : i.space with
  | host => exact decodeCommand_encode p hs hw
  | wire => exact decodeWire_encode hp hs

/-- Settles O2: by the row of the opcode map that the opcode has, or by the fields of the wire word. -/
theorem encodeInvertsDecode : Obligations.EncodeInvertsDecode := by
  intro p sp bytes i h
  obtain ⟨hbytes, hspace, hwf⟩ := decode_encodes h
  exact ⟨hbytes, hspace, hwf⟩

/-- Settles O3: the bytes written out are the encodings of the instructions named. -/
theorem specWordsDecode : Obligations.SpecWordsDecode := by
  have hcommand (i : Instr) (hs : i.space = .host) (hw : i.wellFormed = true) :=
    decodeCommand_encode Params.default hs hw
  have hwire (i : Instr) (hs : i.space = .wire) := decodeWire_encode (p := Params.default) (by decide) hs
  exact ⟨hcommand .pcEnable rfl rfl, hcommand (.pcSetcmp 32) rfl rfl, hcommand (.wtSetcmp 999) rfl rfl,
    hcommand (.wtSetcs 2) rfl rfl, hcommand (.spiWrite8 0xA5) rfl rfl,
    hcommand (.dpSetText [0x31, 0x30, 0x30]) rfl rfl, hcommand .dtStart rfl rfl, hcommand (.evtAck 7) rfl rfl,
    hwire (.wireWrite 5 0x155) rfl, hwire (.wireRead 0 0) rfl⟩

/-- Settles O6: the fields of the wire word that `DpEncode` is. -/
theorem dpEncodeFields : Obligations.DpEncodeFields := by
  intro a c v
  have hdata : (v.extractLsb' 0 10).toNat = v.toNat % 1024 := by
    rw [BitVec.extractLsb'_toNat, Nat.shiftRight_zero]
  rw [dpEncode_eq_wireWord]
  exact ⟨wireAddr_wireWord _ _ _, wireCmd_wireWord _ _ _, by rw [wireData_wireWord, hdata],
    by rw [wireWord_toNat, hdata]⟩

/-! ### Bytes that are no command -/

/-- 00_scope.md R7, 60_exceptions.md R228: bytes that are no legal encoding are answered with `ILLEGAL`. -/
theorem seqStep_of_error {s : State} {e : DecodeError} (hbusy : s.seq.busy = true) (hop : s.fetched = .error e) :
    seqStep s = .next (ended 0x02 [] s) := by
  simp only [seqStep, hbusy, if_true, hop]
  rfl

/-- 30_encoding.md R71: a host command is read by its opcode. -/
theorem fetched_host {s : State} {opcode : Byte} {operands : List Byte} (hs : s.seq.space = .host)
    (hop : s.seq.op = opcode :: operands) : s.fetched = decodeOperands opcode operands := by
  rw [State.fetched, hs, hop]
  rfl

/-- 30_encoding.md R75: how many opcodes are reserved. The kernel counts them: for the elaborator the 256 comparisons
with the map are too deep. -/
theorem length_reservedOpcodes :
    ((List.range 256).filter fun n => !(hostOpcodes.map (·.1)).contains (BitVec.ofNat 8 n)).length = 229 := by
  decide +kernel

/-- Settles O4: the 27 opcodes of the map leave 229, each of which is read as nothing. -/
theorem reservedOpcodeAnswersIllegal : Obligations.ReservedOpcodeAnswersIllegal := by
  refine ⟨length_reservedOpcodes, fun s opcode operands hnot hbusy hs hop => ?_⟩
  exact seqStep_of_error hbusy ((fetched_host hs hop).trans (decodeOperands_reserved hnot operands))

/-- Settles O5: the format of the opcode's row reads the operand bytes exactly when there are as many as it requires. -/
theorem wrongLengthAnswersIllegal : Obligations.WrongLengthAnswersIllegal := by
  intro s opcode f operands hrow hbusy hs hop
  rw [fetched_host hs hop, List.length_cons]
  rcases (readsFormat_of_mem s.cfg hrow).length operands with ⟨hlen, hok⟩ | ⟨hlen, herror⟩
  · exact ⟨fun hne => absurd hlen hne, fun _ => hok⟩
  · exact ⟨fun _ => seqStep_of_error hbusy ((fetched_host hs hop).trans herror), fun heq => absurd heq hlen⟩

/-! ### A wire word on the link -/

theorem waitTransfer_eq (s : State) : waitTransfer s = .next (waited s) := by
  rcases waitTransfer_cases s with ⟨hb, h⟩ | ⟨hb, h⟩ <;> rw [h, waited, hb] <;> rfl

/-- 43_spi_link.md R163: the six steps of a frame of two bytes. -/
theorem spiFrame_two_step (hi lo : State → Byte) (s : State) {j : Nat} (hj : j < 6) :
    ∃ f, (spiFrame [hi, lo])[j]? = some f ∧ f s = .next (wordFrameStep (hi s) (lo s) j s) := by
  match j, hj with
  | 0, _ | 1, _ | 3, _ | 5, _ => exact ⟨_, rfl, rfl⟩
  | 2, _ | 4, _ => exact ⟨_, rfl, waitTransfer_eq s⟩

/-- 43_spi_link.md R163: an operation that begins with a frame of two bytes. -/
theorem performStep_wordFrame (hi lo : Byte) (rest : List PrimStep) {s : State} (hk : s.seq.step < 6) :
    performStep (spiFrame [fun _ => hi, fun _ => lo] ++ rest) s = .next (wordFrameStep hi lo s.seq.step s) := by
  obtain ⟨f, hf, hfs⟩ := spiFrame_two_step (fun _ => hi) (fun _ => lo) s hk
  rw [performStep_of_getElem? ((List.getElem?_append_left hk).trans hf), hfs]

/-- Settles O33: the frame of the word's two bytes, then the end of the job. -/
theorem wireWordSteps : Obligations.WireWordSteps := by
  intro s a d i c hi
  have hexec : exec i s = performStep (wireFrame (wireWord a c d)) s := by
    rcases hi with ⟨rfl, rfl⟩ | ⟨rfl, rfl⟩ | ⟨rfl, rfl⟩ | ⟨rfl, rfl⟩ <;> rfl
  rw [hexec, ← hiByte_wireWord, ← loByte_wireWord a c d]
  constructor
  · exact performStep_wordFrame _ _ _
  · intro hk
    have hlast : (wireFrame (wireWord a c d))[s.seq.step]? = some fun s => .next s.advance.idle := by rw [hk]; rfl
    rw [performStep_of_getElem? hlast, State.advance, hk]
    rfl

end Sys2Proof.Machine

/-! ## Responses

30_encoding.md R73: every step of a host command either ends it with its one response or goes on without one, and only
SEQ performs such steps. -/

namespace Sys2Proof.Machine

/-! ### What a primitive step answers -/

/-- From `s` to `t` the operation ends with one response, or it goes on without one. -/
def EndsOrGoesOn (s t : State) : Prop :=
  (t.seq.busy = false ∧ ∃ r, t.out.responses = r :: s.out.responses) ∨
  (t.seq.busy = s.seq.busy ∧ t.out.responses = s.out.responses)

/-- Whatever the primitive step `f` answers, it ends the operation with one response or goes on without one. -/
def AnswersAtEnd (f : PrimStep) : Prop := ∀ s t, f s = .next t → EndsOrGoesOn s t

theorem endsOrGoesOn_deliver (status : Byte) (value : List Byte) (s : State) :
    EndsOrGoesOn s (s.deliver status value) := .inl ⟨rfl, _, rfl⟩

theorem endsOrGoesOn_advance (s : State) : EndsOrGoesOn s s.advance := .inr ⟨rfl, rfl⟩

theorem answersAtEnd_write {f : State → State}
    (h : ∀ s, (f s).seq.busy = s.seq.busy ∧ (f s).out.responses = s.out.responses) : AnswersAtEnd (write f) := by
  rintro s t ⟨⟩
  exact .inr (h s)

theorem answersAtEnd_respond (value : State → List Byte) : AnswersAtEnd (respond value) := by
  rintro s t ⟨⟩
  exact endsOrGoesOn_deliver _ _ s

theorem answersAtEnd_illegalIf (bad : State → Bool) : AnswersAtEnd (illegalIf bad) := by
  intro s t h
  rcases illegalIf_cases bad s with ⟨-, h'⟩ | ⟨-, h'⟩ <;> cases h'.symm.trans h
  · exact endsOrGoesOn_deliver _ _ s
  · exact endsOrGoesOn_advance s

theorem answersAtEnd_failIf (bad : State → Bool) : AnswersAtEnd (failIf bad) := by
  intro s t h
  rcases failIf_cases bad s with ⟨-, h'⟩ | ⟨-, h'⟩ <;> cases h'.symm.trans h
  · exact endsOrGoesOn_deliver _ _ s
  · exact endsOrGoesOn_advance s

theorem answersAtEnd_waitTransfer : AnswersAtEnd waitTransfer := by
  intro s t h
  rcases waitTransfer_cases s with ⟨-, h'⟩ | ⟨-, h'⟩ <;> cases h'.symm.trans h
  · exact .inr ⟨rfl, rfl⟩
  · exact endsOrGoesOn_advance s

/-- Every step of a frame goes on without a response. -/
theorem answersAtEnd_spiFrame (bytes : List (State → Byte)) : ∀ f ∈ spiFrame bytes, AnswersAtEnd f := by
  have hbyte (b : State → Byte) : ∀ f ∈ byteSteps b, AnswersAtEnd f :=
    List.forall_mem_cons.mpr ⟨answersAtEnd_write fun _ => ⟨rfl, rfl⟩,
      List.forall_mem_singleton.mpr answersAtEnd_waitTransfer⟩
  refine List.forall_mem_cons.mpr ⟨answersAtEnd_write fun _ => ⟨rfl, rfl⟩, List.forall_mem_append.mpr ⟨?_, ?_⟩⟩
  · intro f hf
    obtain ⟨b, -, hb⟩ := List.mem_flatMap.mp hf
    exact hbyte b f hb
  · exact List.forall_mem_singleton.mpr (answersAtEnd_write fun _ => ⟨rfl, rfl⟩)

theorem answersAtEnd_dpWrite (v : State → Nat) : ∀ f ∈ dpWrite v, AnswersAtEnd f :=
  List.forall_mem_cons.mpr ⟨answersAtEnd_write fun _ => ⟨rfl, rfl⟩, List.forall_mem_append.mpr
    ⟨answersAtEnd_spiFrame _, List.forall_mem_singleton.mpr (answersAtEnd_write fun s => by simp)⟩⟩

theorem answersAtEnd_readSteps (n count : Nat) : ∀ f ∈ readSteps n count, AnswersAtEnd f := by
  unfold readSteps
  split <;> simp only [List.forall_mem_cons]
  · exact ⟨answersAtEnd_write fun _ => ⟨rfl, rfl⟩, answersAtEnd_respond _, List.forall_mem_nil _⟩
  · exact ⟨answersAtEnd_write fun _ => ⟨rfl, rfl⟩, answersAtEnd_write fun _ => ⟨rfl, rfl⟩, answersAtEnd_respond _,
      List.forall_mem_nil _⟩

/-! ### What a host command answers -/

/-- Steps that answer at the end at most, then the response. -/
theorem answersAtEnd_thenRespond {fs : List PrimStep} (h : ∀ f ∈ fs, AnswersAtEnd f) (value : State → List Byte) :
    ∀ f ∈ fs ++ [respond value], AnswersAtEnd f :=
  List.forall_mem_append.mpr ⟨h, List.forall_mem_singleton.mpr (answersAtEnd_respond value)⟩

section Operations

variable {f : State → State} (h : ∀ s, (f s).seq.busy = s.seq.busy ∧ (f s).out.responses = s.out.responses)

include h

theorem answersAtEnd_control : ∀ g ∈ [write f, respondOk], AnswersAtEnd g :=
  answersAtEnd_thenRespond (List.forall_mem_singleton.mpr (answersAtEnd_write h)) _

theorem answersAtEnd_checked {bad : State → Bool} : ∀ g ∈ [illegalIf bad, write f, respondOk], AnswersAtEnd g :=
  List.forall_mem_cons.mpr ⟨answersAtEnd_illegalIf bad, answersAtEnd_control h⟩

end Operations

/-- 30_encoding.md R73: every step of a host command answers at the end at most. -/
theorem answersAtEnd_primStepsOf {i : Instr} (hi : i.space = .host) (s : State) :
    ∀ f ∈ primStepsOf i s, AnswersAtEnd f := by
  cases i with
  | pcEnable | pcDisable | pcClear | wtInit | wtStop | wtClr | syncHold | pscReset | syncRelease | dtStart | dtStop =>
    exact answersAtEnd_control fun _ => ⟨rfl, rfl⟩
  | pcSetcmp v | wtSetcmp v | wtSetruncs v | wtSetcs v | evtAck v => exact answersAtEnd_checked fun s => by simp
  | wtStart =>
    simp only [primStepsOf, List.forall_mem_cons]
    exact ⟨answersAtEnd_write fun _ => ⟨rfl, rfl⟩, answersAtEnd_write fun _ => ⟨rfl, rfl⟩,
      answersAtEnd_write fun _ => ⟨rfl, rfl⟩, answersAtEnd_write fun _ => ⟨rfl, rfl⟩,
      answersAtEnd_write fun _ => ⟨rfl, rfl⟩, answersAtEnd_write fun _ => ⟨rfl, rfl⟩, answersAtEnd_respond _,
      List.forall_mem_nil _⟩
  | pcRead | wtRead => exact answersAtEnd_readSteps _ _
  | dpGet | evtRead => exact List.forall_mem_singleton.mpr (answersAtEnd_respond _)
  | spiWrite8 b => exact answersAtEnd_thenRespond (answersAtEnd_spiFrame [fun _ => b]) _
  | spiWrite16 w =>
    exact answersAtEnd_thenRespond (answersAtEnd_spiFrame [fun _ => hiByte w, fun _ => loByte w]) _
  | dpSetNum v => exact answersAtEnd_thenRespond (answersAtEnd_dpWrite _) _
  | dpInc | dpDec =>
    exact List.forall_mem_cons.mpr ⟨answersAtEnd_write fun _ => ⟨rfl, rfl⟩,
      answersAtEnd_thenRespond (answersAtEnd_dpWrite _) _⟩
  | dpSetText text =>
    simp only [primStepsOf, List.forall_mem_cons]
    exact ⟨answersAtEnd_failIf _, answersAtEnd_failIf _, answersAtEnd_failIf _,
      answersAtEnd_thenRespond (answersAtEnd_dpWrite _) _⟩
  | wireWrite a d | wireIncr a d | wireDecr a d | wireRead a d => cases hi

/-- 60_exceptions.md R225: SEQ ends the host command in progress with one response, or goes on without one. -/
theorem seqStep_endsOrGoesOn {s t : State} (h : seqStep s = .next t) (hs : s.seq.space = .host)
    (hbusy : s.seq.busy = true) : EndsOrGoesOn s t := by
  cases hi : s.fetched with
  | error e =>
    obtain rfl := Host.Outcome.next.inj ((seqStep_of_error hbusy hi).symm.trans h)
    exact endsOrGoesOn_deliver _ _ s
  | ok i =>
    have hspace : i.space = .host := (decode_encodes hi).space.trans hs
    obtain ⟨f, hf, hft⟩ := exec_next ((seqStep_of_fetched hbusy hi).symm.trans h)
    exact answersAtEnd_primStepsOf hspace s f (List.mem_of_getElem? hf) s t hft

/-- 10_state.md R28: an idle sequencer has no step. -/
theorem seqStep_of_idle {s : State} (hidle : s.seq.busy = false) : seqStep s = .next s := by
  simp [seqStep, hidle]

/-- 30_encoding.md R73: only SEQ delivers responses. -/
theorem takeMove_responses {m : Move} {s t : State} (h : takeMove m s = .next t) (hseq : m ≠ .seq) :
    t.out.responses = s.out.responses := by
  cases m with
  | seq => exact absurd rfl hseq
  | clk => exact Host.Outcome.next.inj h ▸ (clkStep_hardwareMove s).responses
  | edge => exact Host.Outcome.next.inj h ▸ (edgeStep_hardwareMove s).responses
  | dt => exact Host.Outcome.next.inj h ▸ (dtStep_hardwareMove s).responses
  | eng => exact Host.Outcome.next.inj h ▸ engBitStep_responses s
  | command bytes => exact Host.Outcome.next.inj h ▸ congrArg Observed.responses (s.accept_out bytes)
  | spiReady ready => exact Host.Outcome.next.inj h ▸ rfl
  | readOrder loFirst => exact Host.Outcome.next.inj h ▸ rfl
  | reset => exact Host.Outcome.next.inj h ▸ rfl

/-- Settles O13: SEQ answers as it ends the operation; the other agents neither end it nor answer, and RESET ends it
without an answer. -/
theorem oneResponsePerCommand : Obligations.OneResponsePerCommand := by
  intro m s t h hs
  by_cases hm : m = .seq
  · subst hm
    cases hb : s.seq.busy with
    | false =>
      obtain rfl := Host.Outcome.next.inj ((seqStep_of_idle hb).symm.trans h)
      exact ⟨fun _ hbusy => absurd hbusy Bool.false_ne_true, fun _ => rfl⟩
    | true =>
      rcases seqStep_endsOrGoesOn h hs hb with ⟨hidle, hr⟩ | ⟨hsame, hr⟩
      · exact ⟨fun _ _ _ => hr, by simp [hidle]⟩
      · exact ⟨fun _ _ hidle => by simp [hb, hidle] at hsame, fun _ => hr⟩
  · refine ⟨fun hreset hb hb' => ?_, fun _ => takeMove_responses h hm⟩
    obtain ⟨t', ht', hseq, -⟩ := takeMove_of_busy hb hm hreset
    obtain rfl := Host.Outcome.next.inj (ht'.symm.trans h)
    simp [hseq, hb] at hb'

end Sys2Proof.Machine

/-! ## The Pulse Counter

40_pulse_counter.md: the operations step by step, and what an edge counts. The lemmas about the shapes that operations
of several units share (a control, a checked write, a read of a counter) are stated for any instruction of that shape. -/

namespace Sys2Proof.Machine

/-! ### Operations of a common shape -/

section Shapes

variable {i : Instr} {s : State} {f : State → State} {k n c : Nat}

/-- 10_state.md R28: the primitive step of index `SEQ_STEP`. -/
theorem exec_of_getElem? {g : PrimStep} (hk : s.seq.step = k) (hg : (primStepsOf i s)[k]? = some g) :
    exec i s = g s := by
  rw [exec_eq_performStep]
  exact performStep_of_getElem? (hk ▸ hg)

theorem advance_of_step (hk : s.seq.step = k) : s.advance = { s with seq.step := k + 1 } := by
  rw [State.advance, hk]

/-- A step that writes registers and leaves the sequencer alone. -/
theorem exec_write (hk : s.seq.step = k) (hf : (f s).seq = s.seq) (hg : (primStepsOf i s)[k]? = some (write f)) :
    exec i s = .next { f s with seq.step := k + 1 } := by
  rw [exec_of_getElem? hk hg, write_apply, advance_of_step (hf ▸ hk)]

/-- 30_encoding.md R73: the step `respond(OK)`. -/
theorem exec_respondOk (hk : s.seq.step = k) (hg : (primStepsOf i s)[k]? = some respondOk) :
    exec i s = .next (ended 0x00 [] s) :=
  exec_of_getElem? hk hg

/-- An operation of one register write and the response. -/
theorem exec_control (hi : primStepsOf i s = [write f, respondOk]) (hf : (f s).seq = s.seq) :
    (s.seq.step = 0 → exec i s = .next { f s with seq.step := 1 }) ∧
    (s.seq.step = 1 → exec i s = .next (ended 0x00 [] s)) :=
  ⟨fun hk => exec_write hk hf (by rw [hi]; rfl), fun hk => exec_respondOk hk (by rw [hi]; rfl)⟩

/-- An operation of one operand check, one register write and the response. -/
theorem exec_checked {bad : State → Bool} (hi : primStepsOf i s = [illegalIf bad, write f, respondOk])
    (hf : (f s).seq = s.seq) :
    (s.seq.step = 0 → bad s = true → exec i s = .next (ended 0x02 [] s)) ∧
    (s.seq.step = 0 → bad s = false → exec i s = .next { s with seq.step := 1 }) ∧
    (s.seq.step = 1 → exec i s = .next { f s with seq.step := 2 }) ∧
    (s.seq.step = 2 → exec i s = .next (ended 0x00 [] s)) := by
  have hcheck (hk : s.seq.step = 0) : exec i s = illegalIf bad s := exec_of_getElem? hk (by rw [hi]; rfl)
  refine ⟨fun hk hbad => ?_, fun hk hgood => ?_, fun hk => exec_write hk hf (by rw [hi]; rfl),
    fun hk => exec_respondOk hk (by rw [hi]; rfl)⟩
  · rw [hcheck hk, illegalIf, if_pos hbad]
    rfl
  · rw [hcheck hk, illegalIf, hgood, if_neg Bool.false_ne_true, advance_of_step hk]

end Shapes

/-! ### The controls and the compare registers -/

/-- Settles O14: each of the three is one register write and the response. -/
theorem pulseCounterControls : Obligations.PulseCounterControls := by
  refine ⟨rfl, rfl, rfl, fun s => ?_⟩
  obtain ⟨henable, henabled⟩ := exec_control (i := .pcEnable) (s := s) rfl rfl
  obtain ⟨hdisable, hdisabled⟩ := exec_control (i := .pcDisable) (s := s) rfl rfl
  obtain ⟨hclear, hcleared⟩ := exec_control (i := .pcClear) (s := s) rfl rfl
  exact ⟨henable, henabled, hdisable, hdisabled, hclear, hcleared⟩

theorem exceedsWidth_iff {n : Nat} {v : Word} : exceedsWidth n v = true ↔ 2 ^ n ≤ v.toNat := decide_eq_true_iff

theorem exceedsWidth_eq_false_iff {n : Nat} {v : Word} : exceedsWidth n v = false ↔ v.toNat < 2 ^ n :=
  decide_eq_false_iff_not.trans Nat.not_le

/-- Settles O16: each of the two is a checked write. -/
theorem compareRegisterWrites : Obligations.CompareRegisterWrites := by
  refine ⟨fun _ _ => ⟨rfl, rfl⟩, fun s v => ?_⟩
  obtain ⟨hpbad, hpgood, hpwrite, hpend⟩ := exec_checked (i := .pcSetcmp v) (s := s) rfl rfl
  obtain ⟨hwbad, hwgood, hwwrite, hwend⟩ := exec_checked (i := .wtSetcmp v) (s := s) rfl rfl
  simp only [exceedsWidth_iff, exceedsWidth_eq_false_iff] at hpbad hpgood hwbad hwgood
  exact ⟨hpbad, hpgood, hpwrite, hpend, hwbad, hwgood, hwwrite, hwend⟩

/-! ### The read, bit by bit -/

/-- 20_memory.md R56: a byte sample replaces the bits of its byte, of those that the counter has. -/
theorem getLsbD_sample (low : Bool) (n c : Nat) (tmp : Word) {k : Nat} (hk : k < 16) :
    (sample low n (BitVec.ofNat 16 c) tmp).getLsbD k =
      if (if low = true then k < 8 else 8 ≤ k ∧ k < n) then c.testBit k else tmp.getLsbD k := by
  have hc : (BitVec.ofNat 16 c).getLsbD k = c.testBit k := by
    rw [BitVec.getLsbD_ofNat]
    simp [hk]
  cases low with
  | true => exact (getLsbD_sampleLow _ _ k hk).trans (by simp [hc])
  | false => exact (getLsbD_sampleHigh n _ _ k hk).trans (by simp [hc])

/-- 20_memory.md R56: the second sample takes the byte that the first one left. -/
theorem getLsbD_sample_not (low : Bool) (n c : Nat) (tmp : Word) {k : Nat} (hk : k < 16) :
    (sample (!low) n (BitVec.ofNat 16 c) tmp).getLsbD k =
      if (if low = true then 8 ≤ k ∧ k < n else k < 8) then c.testBit k else tmp.getLsbD k := by
  rw [getLsbD_sample _ n c tmp hk]
  cases low <;> rfl

/-- 40_pulse_counter.md R105, 41_window_timer.md R125: the steps of the read of an `n`-bit counter at `c`. -/
theorem exec_read {i : Instr} {s : State} {n c : Nat} (hi : primStepsOf i s = readSteps n c) :
    (n ≤ 8 → s.seq.step = 0 → exec i s = .next { s with seq.tmp := BitVec.ofNat 16 c, seq.step := 1 }) ∧
    (n ≤ 8 → s.seq.step = 1 →
      exec i s = .next (ended 0x00 [s.seq.tmp.extractLsb' 8 8, s.seq.tmp.extractLsb' 0 8] s)) ∧
    (8 < n → s.seq.step = 0 → ∃ v : Word,
      exec i s = .next { s with seq.tmp := v, seq.loFirst := s.env.loFirst, seq.step := 1 } ∧
      ∀ k < 16, v.getLsbD k =
        if (if s.env.loFirst = true then k < 8 else 8 ≤ k ∧ k < n) then c.testBit k else s.seq.tmp.getLsbD k) ∧
    (8 < n → s.seq.step = 1 → ∃ v : Word,
      exec i s = .next { s with seq.tmp := v, seq.step := 2 } ∧
      ∀ k < 16, v.getLsbD k =
        if (if s.seq.loFirst = true then 8 ≤ k ∧ k < n else k < 8) then c.testBit k else s.seq.tmp.getLsbD k) ∧
    (8 < n → s.seq.step = 2 → ∃ v : Word,
      exec i s = .next (ended 0x00 [v.extractLsb' 8 8, v.extractLsb' 0 8] s) ∧
      ∀ k < 16, v.getLsbD k = (decide (k < n) && s.seq.tmp.getLsbD k)) := by
  refine ⟨fun hn hk => ?_, exec_read_answerWhole hi, fun hn hk => ?_, fun hn hk => ?_, fun hn hk => ?_⟩
  · rw [exec_read_whole hi hn hk, advance_of_step (s := s.setTmp (BitVec.ofNat 16 c)) hk]
    rfl
  · refine ⟨_, ?_, fun k hk16 => getLsbD_sample _ n c _ hk16⟩
    rw [exec_read_first hi hn hk, sampleFirst, write_apply, State.advance, hk]
  · refine ⟨_, ?_, fun k hk16 => getLsbD_sample_not _ n c _ hk16⟩
    rw [exec_read_second hi hn hk, sampleSecond, write_apply, State.advance, hk]
  · refine ⟨_, exec_read_answer hi hn hk, fun k hk16 => ?_⟩
    rw [BitVec.getLsbD_and, getLsbD_widthMask n k hk16, Bool.and_comm]

/-- Settles O15: `PC_READ` reads the `N_PC`-bit counter. -/
theorem pulseCounterRead : Obligations.PulseCounterRead := ⟨rfl, fun _ => exec_read rfl⟩

/-! ### What an edge counts -/

/-- A bit is in a word exactly when setting it changes nothing. -/
theorem or_twoPow_eq_self_iff {w i : Nat} (hi : i < w) (v : BitVec w) :
    v ||| BitVec.twoPow w i = v ↔ v.getLsbD i = true := by
  constructor
  · intro h
    rw [← h]
    simp [hi]
  · intro h
    ext k hk
    by_cases hik : i = k
    · subst hik
      simp [← BitVec.getLsbD_eq_getElem, h]
    · simp [← BitVec.getLsbD_eq_getElem, BitVec.getLsbD_twoPow, hik]

/-- 60_exceptions.md R232, R235: an event sets its flag, and writes the pins if the flag was clear. -/
theorem fireEvent_spec {i : Nat} (hi : i < 3) (s : State) :
    s.fireEvent i = { s with
      evt := s.evt ||| BitVec.twoPow 3 i
      out.pinTrace := if s.evt.getLsbD i = true then s.out.pinTrace
        else .evt (s.evt ||| BitVec.twoPow 3 i) :: s.out.pinTrace } := by
  simp only [State.fireEvent, setEvt_spec, or_twoPow_eq_self_iff hi]

section Edge

variable {s : State} (hr : s.pc.run = true) (hh : s.sync.hold = false)

include hr hh

/-- 40_pulse_counter.md R100: an edge that does not reach the threshold. -/
theorem edgeStep_below (hc : (s.pc.cnt + 1) % 2 ^ s.cfg.nPc ≠ s.pc.cmp) :
    edgeStep s = { s with pc.cnt := (s.pc.cnt + 1) % 2 ^ s.cfg.nPc } := by
  simp [edgeStep, hr, hh, hc]

/-- 40_pulse_counter.md R100: an edge that reaches the threshold. -/
theorem edgeStep_threshold (hc : (s.pc.cnt + 1) % 2 ^ s.cfg.nPc = s.pc.cmp) :
    edgeStep s = ({ s with pc.cnt := (s.pc.cnt + 1) % 2 ^ s.cfg.nPc } : State).fireEvent pcEvt := by
  simp [edgeStep, hr, hh, hc]

end Edge

/-- Settles O17: the unit stopped or held, an edge below the threshold, and an edge that reaches it. -/
theorem edgeStepCounts : Obligations.EdgeStepCounts := fun s =>
  ⟨fun h => h.elim edgeStep_of_stopped edgeStep_of_hold, edgeStep_below,
    fun hr hh hc => (edgeStep_threshold hr hh hc).trans (fireEvent_spec (by decide) _)⟩

/-- 40_pulse_counter.md R100: edges leave the parameters, the run control, the Window Timer and the prescaler. -/
theorem edgeStep_iterate_kept (s : State) (n : Nat) :
    (edgeStep^[n] s).cfg = s.cfg ∧ (edgeStep^[n] s).pc.run = s.pc.run ∧ (edgeStep^[n] s).wt = s.wt ∧
    (edgeStep^[n] s).sync = s.sync := by
  induction n with
  | zero => exact ⟨rfl, rfl, rfl, rfl⟩
  | succ n ih =>
    obtain ⟨hcfg, hrun, hwt, hsync⟩ := ih
    obtain ⟨hpc', hwt', hsync', -⟩ := edgeStep_units (edgeStep^[n] s)
    rw [Function.iterate_succ_apply']
    exact ⟨(edgeStep_hardwareMove _).cfg.trans hcfg, (congrArg PulseCounter.run hpc').trans hrun, hwt'.trans hwt,
      hsync'.trans hsync⟩

/-- 40_pulse_counter.md R110: each of `n + 1` edges counts one. -/
theorem edgeStep_iterate_cnt {s : State} (hr : s.pc.run = true) (hh : s.sync.hold = false) (n : Nat) :
    (edgeStep^[n + 1] s).pc.cnt = (s.pc.cnt + (n + 1)) % 2 ^ s.cfg.nPc := by
  induction n with
  | zero => exact edgeStep_cnt hr hh
  | succ n ih =>
    obtain ⟨hcfg, hrun, -, hsync⟩ := edgeStep_iterate_kept s (n + 1)
    rw [Function.iterate_succ_apply', edgeStep_cnt (hrun.trans hr) (hsync ▸ hh), ih, hcfg, Nat.mod_add_mod,
      Nat.add_assoc]

/-- Settles O18, by induction on the number of edges. -/
theorem pulseCountIsEdgeCount : Obligations.PulseCountIsEdgeCount := by
  intro s n hr hh
  obtain ⟨-, -, hwt, hsync⟩ := edgeStep_iterate_kept s (n + 1)
  exact ⟨edgeStep_iterate_cnt hr hh n, hwt, hsync⟩

end Sys2Proof.Machine

/-! ## The Collection Window Timer

41_window_timer.md: the operations step by step, what a base-clock period and a tick do, and the count after `n` periods
(R130). -/

namespace Sys2Proof.Machine

/-! ### The operations -/

/-- Settles O19: each of the two is one register write and the response. -/
theorem windowTimerControls : Obligations.WindowTimerControls := by
  refine ⟨rfl, rfl, fun s => ?_⟩
  obtain ⟨hinit, hinited⟩ := exec_control (i := .wtInit) (s := s) rfl rfl
  obtain ⟨hstop, hstopped⟩ := exec_control (i := .wtStop) (s := s) rfl rfl
  exact ⟨hinit, hinited, hstop, hstopped⟩

/-- Settles O20: `WT_READ` reads the `N_WT`-bit counter. -/
theorem windowTimerRead : Obligations.WindowTimerRead := ⟨rfl, fun _ => exec_read rfl⟩

theorem badRunningSelect_eq_false_iff {p : Params} {v : Byte} :
    badRunningSelect p v = false ↔ ∃ d, (v.toNat, d) ∈ p.div := by
  rw [badRunningSelect, Bool.not_eq_false', isKey_iff]

theorem badRunningSelect_iff {p : Params} {v : Byte} :
    badRunningSelect p v = true ↔ ∀ d, (v.toNat, d) ∉ p.div := by
  rw [← Bool.not_eq_false, badRunningSelect_eq_false_iff, not_exists]

/-- 30_encoding.md R77 (c), (d): `WT_SETCS` reserves the values of `WT_SETRUNCS`, 0 apart. -/
theorem badClockSelect_eq (p : Params) (v : Byte) :
    badClockSelect p v = (decide (v ≠ 0) && badRunningSelect p v) := rfl

theorem badClockSelect_eq_false_iff {p : Params} {v : Byte} :
    badClockSelect p v = false ↔ v = 0 ∨ ∃ d, (v.toNat, d) ∈ p.div := by
  rw [badClockSelect_eq, Bool.and_eq_false_iff, decide_eq_false_iff_not, not_not, badRunningSelect_eq_false_iff]

theorem badClockSelect_iff {p : Params} {v : Byte} :
    badClockSelect p v = true ↔ v ≠ 0 ∧ ∀ d, (v.toNat, d) ∉ p.div := by
  rw [badClockSelect_eq, Bool.and_eq_true, decide_eq_true_iff, badRunningSelect_iff]

/-- Settles O21: each of the two is a checked write. -/
theorem clockSelectWrites : Obligations.ClockSelectWrites := by
  refine ⟨fun _ => ⟨rfl, rfl⟩, fun s v => ?_⟩
  obtain ⟨hrbad, hrgood, hrwrite, hrend⟩ := exec_checked (i := .wtSetruncs v) (s := s) rfl rfl
  obtain ⟨hcbad, hcgood, hcwrite, hcend⟩ := exec_checked (i := .wtSetcs v) (s := s) rfl rfl
  simp only [badRunningSelect_iff, badRunningSelect_eq_false_iff] at hrbad hrgood
  simp only [badClockSelect_iff, badClockSelect_eq_false_iff] at hcbad hcgood
  exact ⟨hrbad, hrgood, hrwrite, hrend, fun hk h0 hv => hcbad hk ⟨h0, hv⟩, hcgood, hcwrite, hcend⟩

/-! ### A base-clock period -/

/-- 41_window_timer.md R120: a selected tap completes a period at the multiples of its divisor. -/
theorem tapTicks_iff {s : State} {d psc : Nat} (hcs : s.wt.cs ≠ 0)
    (hd : s.cfg.div.lookup s.wt.cs.toNat = some d) : tapTicks s psc = true ↔ psc % d = 0 := by
  rw [tapTicks, divisor, hd, decide_eq_true hcs, Bool.true_and, decide_eq_true_iff]

theorem tapTicks_of_stopped {s : State} (hcs : s.wt.cs = 0) (psc : Nat) : tapTicks s psc = false := by
  simp [tapTicks, hcs]

/-- 41_window_timer.md R120: a period that completes none of the tap's. -/
theorem clkStep_of_not_tapTicks {s : State} (hh : s.sync.hold = false)
    (ht : ¬ tapTicks s ((s.sync.psc + 1) % 2 ^ s.cfg.pscBits) = true) :
    clkStep s = { s with sync.psc := (s.sync.psc + 1) % 2 ^ s.cfg.pscBits } := by
  simp [clkStep, hh, ht]

/-- 41_window_timer.md R120: a period that completes one of the tap's. -/
theorem clkStep_of_tapTicks {s : State} (hh : s.sync.hold = false)
    (ht : tapTicks s ((s.sync.psc + 1) % 2 ^ s.cfg.pscBits) = true) :
    clkStep s = wtTick { s with sync.psc := (s.sync.psc + 1) % 2 ^ s.cfg.pscBits } := by
  simp [clkStep, hh, ht]

/-- Settles O22: the counters held, no tap, and a tap whose period is not or is complete. -/
theorem clkStepDividesBaseClock : Obligations.ClkStepDividesBaseClock := fun _ =>
  ⟨clkStep_of_hold,
    fun hh hcs => clkStep_of_not_tapTicks hh (by simp [tapTicks_of_stopped hcs]),
    fun _ hh hcs hd hmod => clkStep_of_not_tapTicks hh (mt (tapTicks_iff hcs hd).mp hmod),
    fun _ hh hcs hd hmod => clkStep_of_tapTicks hh ((tapTicks_iff hcs hd).mpr hmod)⟩

/-! ### A tick -/

/-- 41_window_timer.md R121: a tick writes the count, then the flags. -/
theorem wtTick_eq_setEvt (s : State) :
    wtTick s = ({ s with wt.cnt := tickedCount s } : State).setEvt
      (if tickedCount s = s.wt.cmp then s.evt ||| 0b010 else s.evt) := by
  by_cases hc : tickedCount s = s.wt.cmp
  · rw [wtTick, if_pos hc, if_pos hc]
    rfl
  · simp [wtTick, hc, State.setEvt]

theorem wtTick_wt (s : State) : (wtTick s).wt = { s.wt with cnt := tickedCount s } := by
  simp [wtTick_eq_setEvt]

theorem wtTick_sync (s : State) : (wtTick s).sync = s.sync := by
  simp [wtTick_eq_setEvt]

/-- Settles O23: the count is `tickedCount`, and the flags are written as `setEvt` writes them. -/
theorem wtTickClearsOnMatch : Obligations.WtTickClearsOnMatch := by
  intro s
  have hspec := (wtTick_eq_setEvt s).trans (setEvt_spec _ _)
  refine ⟨?_, ?_, ?_, ?_⟩
  · simp [wtTick_wt, tickedCount]
  · simp [wtTick_eq_setEvt]
  · rw [hspec]
  · rw [hspec]

/-! ### The count after `n` base-clock periods -/

/-- 00_scope.md R6: the divisors of `DIV` divide the period of the prescaler. -/
theorem divisor_dvd {p : Params} (hl : p.legal = true) {c d : Nat} (hd : p.div.lookup c = some d) :
    d ∣ 2 ^ p.pscBits := by
  obtain ⟨before, after, hdiv, -⟩ := List.lookup_eq_some_iff.mp hd
  have hmem : (c, d) ∈ p.div := by simp [hdiv]
  simp only [Params.legal, Params.divLegal, Bool.and_eq_true, List.all_eq_true, decide_eq_true_eq] at hl
  obtain ⟨⟨⟨⟨⟨⟨⟨⟨⟨-, -, hentry⟩, -⟩, -⟩, -⟩, -⟩, -⟩, -⟩, -⟩, -⟩ := hl
  obtain ⟨-, -, -, hmod⟩ := hentry _ hmem
  exact Nat.dvd_of_mod_eq_zero hmod

/-- 41_window_timer.md R120: every period counts in the prescaler, the timer ticking or not. -/
theorem clkStep_sync {s : State} (hh : s.sync.hold = false) :
    (clkStep s).sync = { s.sync with psc := (s.sync.psc + 1) % 2 ^ s.cfg.pscBits } := by
  rcases clkStep_cases s with ⟨hheld, -⟩ | ⟨-, h | ⟨-, h⟩⟩
  · simp [hh] at hheld
  · rw [h]
  · rw [h, wtTick_sync]

/-- 41_window_timer.md R120: the count after a period that ticks the timer; the prescaler has no part in it. -/
theorem clkStep_wt_of_tapTicks {s : State} (hh : s.sync.hold = false)
    (ht : tapTicks s ((s.sync.psc + 1) % 2 ^ s.cfg.pscBits) = true) :
    (clkStep s).wt = { s.wt with cnt := tickedCount s } :=
  (congrArg State.wt (clkStep_of_tapTicks hh ht)).trans (wtTick_wt _)

/-- 41_window_timer.md R130: how many values the count runs through, the compare value the last of them with
clear-on-match. -/
def WindowTimer.period (p : Params) (wt : WindowTimer) : Nat := if wt.ctc = true then wt.cmp + 1 else 2 ^ p.nWt

theorem WindowTimer.period_pos (p : Params) (wt : WindowTimer) : 0 < wt.period p := by
  unfold WindowTimer.period
  split
  · exact Nat.succ_pos _
  · exact Nat.two_pow_pos _

/-- 41_window_timer.md R121: from a count within its period, a tick counts up modulo that period. -/
theorem tickedCount_eq_mod_period {s : State} (hcmp : s.wt.cmp < 2 ^ s.cfg.nWt)
    (hcnt : s.wt.cnt < s.wt.period s.cfg) : tickedCount s = (s.wt.cnt + 1) % s.wt.period s.cfg := by
  cases hctc : s.wt.ctc with
  | false => simp [tickedCount, WindowTimer.period, hctc]
  | true =>
    simp only [WindowTimer.period, hctc, if_true] at hcnt ⊢
    by_cases hc : s.wt.cnt = s.wt.cmp
    · simp [tickedCount, hctc, hc]
    · have hbelow : s.wt.cnt + 1 < s.wt.cmp + 1 := by omega
      simp [tickedCount, hctc, hc, Nat.mod_eq_of_lt hbelow, Nat.mod_eq_of_lt (hbelow.trans_le hcmp)]

/-- 41_window_timer.md R130: `t` is `s` after `n` base-clock periods, of which `n / d` were ticks. -/
structure AfterClocks (s : State) (d n : Nat) (t : State) : Prop where
  cfg : t.cfg = s.cfg
  pc : t.pc = s.pc
  sync : t.sync = { s.sync with psc := n % 2 ^ s.cfg.pscBits }
  wt : t.wt = { s.wt with cnt := n / d % s.wt.period s.cfg }

section Clocks

variable {s t : State} {d n : Nat}

theorem afterClocks_zero (hpsc : s.sync.psc = 0) (hcnt : s.wt.cnt = 0) : AfterClocks s d 0 s where
  cfg := rfl
  pc := rfl
  sync := by rw [Nat.zero_mod, ← hpsc]
  wt := by rw [Nat.zero_div, Nat.zero_mod, ← hcnt]

/-- The tap's period is complete at the multiples of `d`: the prescaler wraps at one of them. -/
theorem AfterClocks.ticks_iff_dvd (h : AfterClocks s d n t) (hl : s.cfg.legal = true) (hcs : s.wt.cs ≠ 0)
    (hd : s.cfg.div.lookup s.wt.cs.toNat = some d) :
    tapTicks t ((t.sync.psc + 1) % 2 ^ t.cfg.pscBits) = true ↔ d ∣ n + 1 := by
  have hcs' : t.wt.cs = s.wt.cs := by rw [h.wt]
  rw [tapTicks_iff (d := d) (by rwa [hcs']) (by rwa [h.cfg, hcs']), h.sync, h.cfg, Nat.mod_add_mod,
    Nat.mod_mod_of_dvd _ (divisor_dvd hl hd), Nat.dvd_iff_mod_eq_zero]

/-- A tick takes the count to the number of ticks after it. -/
theorem AfterClocks.tickedCount_eq (h : AfterClocks s d n t) (hcmp : s.wt.cmp < 2 ^ s.cfg.nWt) :
    tickedCount t = (n / d + 1) % s.wt.period s.cfg := by
  have hcnt : t.wt.cnt = n / d % s.wt.period s.cfg := by rw [h.wt]
  have hperiod : t.wt.period t.cfg = s.wt.period s.cfg := by rw [h.wt, h.cfg]; rfl
  have hlt : t.wt.cnt < t.wt.period t.cfg := by
    rw [hcnt, hperiod]
    exact Nat.mod_lt _ (WindowTimer.period_pos _ _)
  rw [tickedCount_eq_mod_period (by rwa [h.wt, h.cfg]) hlt, hperiod, hcnt, Nat.mod_add_mod]

/-- 41_window_timer.md R130: one more base-clock period. -/
theorem AfterClocks.clkStep (h : AfterClocks s d n t) (hl : s.cfg.legal = true) (hh : s.sync.hold = false)
    (hcs : s.wt.cs ≠ 0) (hd : s.cfg.div.lookup s.wt.cs.toNat = some d) (hcmp : s.wt.cmp < 2 ^ s.cfg.nWt) :
    AfterClocks s d (n + 1) (clkStep t) where
  cfg := (clkStep_hardwareMove t).cfg.trans h.cfg
  pc := by
    obtain ⟨hpc, -⟩ := clkStep_units t
    exact hpc.trans h.pc
  sync := by rw [clkStep_sync (by rwa [h.sync]), h.sync, h.cfg, Nat.mod_add_mod]
  wt := by
    have hht : t.sync.hold = false := by rwa [h.sync]
    by_cases hdvd : d ∣ n + 1
    · rw [clkStep_wt_of_tapTicks hht ((h.ticks_iff_dvd hl hcs hd).mpr hdvd), Nat.succ_div_of_dvd hdvd,
        ← h.tickedCount_eq hcmp, h.wt]
    · rw [clkStep_of_not_tapTicks hht (mt (h.ticks_iff_dvd hl hcs hd).mp hdvd), Nat.succ_div_of_not_dvd hdvd]
      exact h.wt

end Clocks

/-- Settles O24, by induction on the number of base-clock periods. -/
theorem windowCountAfterClocks : Obligations.WindowCountAfterClocks := by
  intro s d n hl hh hpsc hcnt hcs hd hcmp
  have hafter : AfterClocks s d n (clkStep^[n] s) := by
    induction n with
    | zero => exact afterClocks_zero hpsc hcnt
    | succ n ih =>
      rw [Function.iterate_succ_apply']
      exact ih.clkStep hl hh hcs hd hcmp
  rw [hafter.sync, hafter.wt, ← apply_ite (n / d % ·)]
  exact ⟨rfl, rfl, hafter.pc⟩

end Sys2Proof.Machine

/-! ## The synchronized start

42_sync_start.md: the controls and `WT_START` step by step, the epoch that `WT_START` sets whatever the other agents do
in between (R147), the start by five commands (R149), and the skew of a tick over an open window (R146 (b)). -/

namespace Sys2Proof.Machine

/-! ### The operations -/

/-- Settles O25: each of the four is one register write and the response. -/
theorem synchronizationControls : Obligations.SynchronizationControls := by
  refine ⟨rfl, rfl, rfl, rfl, fun s => ?_⟩
  obtain ⟨hclear, hcleared⟩ := exec_control (i := .wtClr) (s := s) rfl rfl
  obtain ⟨hhold, hheld⟩ := exec_control (i := .syncHold) (s := s) rfl rfl
  obtain ⟨hreset, hwasReset⟩ := exec_control (i := .pscReset) (s := s) rfl rfl
  obtain ⟨hrelease, hreleased⟩ := exec_control (i := .syncRelease) (s := s) rfl rfl
  exact ⟨hclear, hcleared, hhold, hheld, hreset, hwasReset, hrelease, hreleased⟩

/-- 42_sync_start.md R146: a step of `WT_START` that writes registers. -/
theorem exec_wtStart_write (s : State) (k : Nat) {f : State → State}
    (hg : (primStepsOf .wtStart s)[k]? = some (write f)) (hf : (f s).seq = s.seq) :
    s.seq.step = k → exec .wtStart s = .next { f s with seq.step := k + 1 } :=
  fun hk => exec_write hk hf hg

/-- Settles O26: six register writes and the response. -/
theorem synchronizedStartSteps : Obligations.SynchronizedStartSteps := by
  refine ⟨rfl, fun s => ?_⟩
  have hwindow := exec_wtStart_write s 0 rfl rfl
  have hhold := exec_wtStart_write s 1 rfl rfl
  have hpulses := exec_wtStart_write s 2 rfl rfl
  have hselect := exec_wtStart_write s 3 rfl rfl
  have hprescaler := exec_wtStart_write s 4 rfl rfl
  have hrelease := exec_wtStart_write s 5 rfl rfl
  exact ⟨hwindow, hhold, hpulses, hselect, hprescaler, hrelease, fun hk => exec_respondOk hk rfl⟩

/-! ### What the other agents do to the counting units -/

section OtherAgents

variable {m : Move} {s t : State} (h : takeMove m s = .next t) (hseq : m ≠ .seq) (hreset : m ≠ .reset)

include h hseq hreset

/-- 10_state.md R34: SEQ and RESET apart, only EDGE, CLK and DT change the units. -/
theorem takeMove_units_of_other : SameUnits s t ∨ t = edgeStep s ∨ t = clkStep s ∨ t = dtStep s := by
  rcases takeMove_units h hreset with hu | ⟨rfl, -⟩ | ⟨-, ht⟩ | ⟨-, ht⟩ | ⟨-, ht⟩
  · exact .inl hu
  · exact absurd rfl hseq
  · exact .inr (.inl ht)
  · exact .inr (.inr (.inl ht))
  · exact .inr (.inr (.inr ht))

/-- 42_sync_start.md R150: while the hold is set they leave the counting units and the prescaler. -/
theorem takeMove_of_hold (hh : s.sync.hold = true) : t.pc = s.pc ∧ t.wt = s.wt ∧ t.sync = s.sync := by
  rcases takeMove_units_of_other h hseq hreset with hu | rfl | rfl | rfl
  · exact ⟨hu.pc, hu.wt, hu.sync⟩
  · simp [edgeStep_of_hold hh]
  · simp [clkStep_of_hold hh]
  · obtain ⟨hpc, hwt, hsync, -⟩ := dtStep_units s
    exact ⟨hpc, hwt, hsync⟩

/-- 41_window_timer.md R120: while no tap is selected they change the pulse count and the prescaler only. -/
theorem takeMove_of_closed (hcs : s.wt.cs = 0) :
    t.pc = { s.pc with cnt := t.pc.cnt } ∧ t.wt = s.wt ∧ t.sync = { s.sync with psc := t.sync.psc } := by
  rcases takeMove_units_of_other h hseq hreset with hu | rfl | rfl | rfl
  · simp [hu.pc, hu.wt, hu.sync]
  · obtain ⟨hpc, hwt, hsync, -⟩ := edgeStep_units s
    exact ⟨hpc, hwt, by rw [hsync]⟩
  · obtain ⟨hpc, -, hsync, -⟩ := clkStep_units s
    exact ⟨by rw [hpc], clkStep_wt_of_still (.inl hcs), hsync⟩
  · obtain ⟨hpc, hwt, hsync, -⟩ := dtStep_units s
    exact ⟨by rw [hpc], hwt, by rw [hsync]⟩

end OtherAgents

/-- Settles O49: CLK and EDGE do nothing under the hold, and the moves that are left touch none of the three. -/
theorem holdFreezesBothUnits : Obligations.HoldFreezesBothUnits :=
  fun _ _ _ h hh hreset hseq => takeMove_of_hold h hseq hreset hh

/-! ### The epoch -/

/-- 00_scope.md R5: for every interleaving, a predicate that SEQ's moves advance, up to index `n`, and that the other
agents' moves keep has advanced by the number of SEQ's moves. -/
theorem runMoves_of_progress {P : Nat → State → Prop} {n : Nat}
    (hseq : ∀ k u, k < n → P k u → ∃ t, takeMove .seq u = .next t ∧ P (k + 1) t)
    (hother : ∀ m k u, m ≠ .seq → m ≠ .reset → P k u → ∃ t, takeMove m u = .next t ∧ P k t)
    (ns : List Move) {ms : List Move} (hreset : .reset ∉ ms) {k : Nat} {u : State} (hu : P k u)
    (hcount : k + ms.count .seq = n) :
    ∃ t, runMoves (ms ++ ns) u = runMoves ns t ∧ P n t := by
  induction ms generalizing k u with
  | nil => exact ⟨u, rfl, by rwa [← hcount, List.count_nil]⟩
  | cons m ms ih =>
    obtain ⟨hm, hms⟩ := not_or.mp (mt List.mem_cons.mpr hreset)
    rw [List.cons_append, runMoves_cons]
    by_cases hmseq : m = .seq
    · subst hmseq
      rw [List.count_cons_self] at hcount
      obtain ⟨t, ht, hnext⟩ := hseq k u (by omega) hu
      rw [ht]
      exact ih hms hnext (by omega)
    · rw [List.count_cons_of_ne hmseq] at hcount
      obtain ⟨t, ht, hnext⟩ := hother m k u hmseq (Ne.symm hm) hu
      rw [ht]
      exact ih hms hnext hcount

/-- 42_sync_start.md R146: the two counting units and the prescaler after `k` steps of a `WT_START` that began in `s`.
Before the hold the edges have made the pulse count some `c` and the base clock the prescaler some `p`. -/
inductive StartUnits (s : State) : Nat → PulseCounter → WindowTimer → Prescaler → Prop
  | begun (c : Nat) (sync : Prescaler) : StartUnits s 0 { s.pc with cnt := c } s.wt sync
  | windowCleared (c : Nat) (sync : Prescaler) :
      StartUnits s 1 { s.pc with cnt := c } { s.wt with cnt := 0 } sync
  | held (c p : Nat) : StartUnits s 2 { s.pc with cnt := c } { s.wt with cnt := 0 } { hold := true, psc := p }
  | pulsesCleared (p : Nat) :
      StartUnits s 3 { s.pc with cnt := 0 } { s.wt with cnt := 0 } { hold := true, psc := p }
  | tapSelected (p : Nat) :
      StartUnits s 4 { s.pc with cnt := 0 } { s.wt with cnt := 0, cs := s.wt.runcs } { hold := true, psc := p }
  | prescalerCleared :
      StartUnits s 5 { s.pc with cnt := 0 } { s.wt with cnt := 0, cs := s.wt.runcs } { hold := true, psc := 0 }

/-- `WT_START` began in `s` and is in progress, `k` of its steps are done. -/
structure Starting (s : State) (k : Nat) (u : State) : Prop where
  busy : u.seq.busy = true
  fetched : u.fetched = .ok .wtStart
  step : u.seq.step = k
  units : StartUnits s k u.pc u.wt u.sync

section Start

variable {s u : State} {k : Nat}

/-- 42_sync_start.md R146: the hold is missing only in the first two rows, where the window is still closed. -/
theorem StartUnits.closed {pc : PulseCounter} {wt : WindowTimer} {sync : Prescaler}
    (h : StartUnits s k pc wt sync) (hcs : s.wt.cs = 0) (hh : sync.hold ≠ true) : wt.cs = 0 := by
  cases h with
  | begun => exact hcs
  | windowCleared => exact hcs
  | _ => exact absurd rfl hh

/-- 42_sync_start.md R146: without the hold the pulse count and the prescaler are free. -/
theorem StartUnits.counted {pc : PulseCounter} {wt : WindowTimer} {sync : Prescaler}
    (h : StartUnits s k pc wt sync) (hh : sync.hold ≠ true) (c p : Nat) :
    StartUnits s k { pc with cnt := c } wt { sync with psc := p } := by
  cases h with
  | begun => exact .begun c _
  | windowCleared => exact .windowCleared c _
  | _ => exact absurd rfl hh

/-- 42_sync_start.md R146: SEQ's move takes the start to its next row, up to the release. -/
theorem Starting.seq (h : Starting s k u) (hk : k < 5) :
    ∃ t, takeMove .seq u = .next t ∧ Starting s (k + 1) t := by
  obtain ⟨hb, hf, hstep, hunits⟩ := h
  have hexec : takeMove .seq u = exec .wtStart u := seqStep_of_fetched hb hf
  obtain ⟨-, hsteps⟩ := synchronizedStartSteps
  obtain ⟨h0, h1, h2, h3, h4, -⟩ := hsteps u
  rcases u with ⟨cfg, pc, wt, sync⟩
  cases hunits with
  | begun c sync => exact ⟨_, hexec.trans (h0 hstep), hb, hf, rfl, .windowCleared c sync⟩
  | windowCleared c sync => exact ⟨_, hexec.trans (h1 hstep), hb, hf, rfl, .held c sync.psc⟩
  | held c p => exact ⟨_, hexec.trans (h2 hstep), hb, hf, rfl, .pulsesCleared p⟩
  | pulsesCleared p => exact ⟨_, hexec.trans (h3 hstep), hb, hf, rfl, .tapSelected p⟩
  | tapSelected p => exact ⟨_, hexec.trans (h4 hstep), hb, hf, rfl, .prescalerCleared⟩
  | prescalerCleared => exact absurd hk (Nat.lt_irrefl 5)

/-- 42_sync_start.md R147: a move of another agent leaves the start in its row. -/
theorem Starting.other {m : Move} (h : Starting s k u) (hcs : s.wt.cs = 0) (hseq : m ≠ .seq) (hreset : m ≠ .reset) :
    ∃ t, takeMove m u = .next t ∧ Starting s k t := by
  obtain ⟨hb, hf, hstep, hunits⟩ := h
  obtain ⟨t, ht, hq, -⟩ := takeMove_of_busy hb hseq hreset
  have hft : t.fetched = u.fetched := by simp only [State.fetched, takeMove_cfg ht, hq]
  refine ⟨t, ht, hq ▸ hb, hft.trans hf, hq ▸ hstep, ?_⟩
  by_cases hh : u.sync.hold = true
  · obtain ⟨hpc, hwt, hsync⟩ := takeMove_of_hold ht hseq hreset hh
    rwa [hpc, hwt, hsync]
  · obtain ⟨hpc, hwt, hsync⟩ := takeMove_of_closed ht hseq hreset (hunits.closed hcs hh)
    rw [hpc, hwt, hsync]
    exact hunits.counted hh _ _

end Start

/-- A run whose first move is SEQ's. -/
theorem runMoves_seq {i : Instr} {s t : State} {ms : List Move} (hb : s.seq.busy = true) (hf : s.fetched = .ok i)
    (h : exec i s = .next t) : runMoves (.seq :: ms) s = runMoves ms t := by
  have hmove : takeMove .seq s = .next t := (seqStep_of_fetched hb hf).trans h
  rw [runMoves_cons, hmove, andThen]

/-- 42_sync_start.md R147: what the units hold when `WT_START` has released the hold. -/
theorem Starting.release {s u : State} (h : Starting s 5 u) :
    ∃ t, runMoves [.seq] u = .next t ∧ t.seq.step = 6 ∧ t.pc = { s.pc with cnt := 0 } ∧
      t.wt = { s.wt with cnt := 0, cs := s.wt.runcs } ∧ t.sync = { hold := false, psc := 0 } := by
  obtain ⟨hb, hf, hstep, hunits⟩ := h
  obtain ⟨-, hsteps⟩ := synchronizedStartSteps
  obtain ⟨-, -, -, -, -, hrelease, -⟩ := hsteps u
  refine ⟨_, runMoves_seq hb hf (hrelease hstep), rfl, ?_⟩
  rcases u with ⟨cfg, pc, wt, sync⟩
  cases hunits
  exact ⟨rfl, rfl, rfl⟩

/-- Settles O27: the first five steps bring the units to the last row of `StartUnits`, and the sixth releases them. -/
theorem synchronizedStartEpoch : Obligations.SynchronizedStartEpoch := by
  intro s ms hb hf hk hcs hreset hcount
  have hstart : Starting s 0 s := ⟨hb, hf, hk, .begun s.pc.cnt s.sync⟩
  obtain ⟨u, hrun, hu⟩ := runMoves_of_progress (fun _ _ hk h => h.seq hk) (fun _ _ _ hs hr h => h.other hcs hs hr)
    [.seq] hreset hstart ((Nat.zero_add _).trans hcount)
  obtain ⟨t, ht, hstep, hpc, hwt, hsync⟩ := hu.release
  refine ⟨t, hrun.trans ht, ?_⟩
  simp [hstep, hpc, hwt, hsync]

/-! ### A tick over an open window -/

/-- 42_sync_start.md R146: the steps of `WT_START` after the first, with no other move in between. -/
theorem runMoves_wtStart_rest {u : State} (hb : u.seq.busy = true) (hf : u.fetched = .ok .wtStart)
    (hk : u.seq.step = 1) :
    runMoves [.seq, .seq, .seq, .seq, .seq] u = .next { u with
      pc.cnt := 0, wt.cs := u.wt.runcs, sync := { hold := false, psc := 0 }, seq.step := 6, env.inputs := [] } := by
  let u₂ : State := { u with sync.hold := true, seq.step := 2 }
  let u₃ : State := { u₂ with pc.cnt := 0, seq.step := 3 }
  let u₄ : State := { u₃ with wt.cs := u.wt.runcs, seq.step := 4 }
  let u₅ : State := { u₄ with sync.psc := 0, seq.step := 5 }
  obtain ⟨-, hsteps⟩ := synchronizedStartSteps
  obtain ⟨-, hhold, -⟩ := hsteps u
  obtain ⟨-, -, hpulses, -⟩ := hsteps u₂
  obtain ⟨-, -, -, hselect, -⟩ := hsteps u₃
  obtain ⟨-, -, -, -, hprescaler, -⟩ := hsteps u₄
  obtain ⟨-, -, -, -, -, hrelease, -⟩ := hsteps u₅
  calc runMoves [.seq, .seq, .seq, .seq, .seq] u
    _ = runMoves [.seq, .seq, .seq, .seq] u₂ := runMoves_seq hb hf (hhold hk)
    _ = runMoves [.seq, .seq, .seq] u₃ := runMoves_seq (s := u₂) hb hf (hpulses rfl)
    _ = runMoves [.seq, .seq] u₄ := runMoves_seq (s := u₃) hb hf (hselect rfl)
    _ = runMoves [.seq] u₅ := runMoves_seq (s := u₄) hb hf (hprescaler rfl)
    _ = _ := runMoves_seq (s := u₅) hb hf (hrelease rfl)

/-- 41_window_timer.md R121: a tick takes a count of 0 to 1, unless it clears on a match at 0. -/
theorem tickedCount_of_zero {s : State} (hcnt : s.wt.cnt = 0) (hn : 1 ≤ s.cfg.nWt)
    (hcmp : s.wt.ctc = true → s.wt.cmp ≠ 0) : tickedCount s = 1 := by
  have hone : 1 % 2 ^ s.cfg.nWt = 1 := Nat.mod_eq_of_lt (Nat.one_lt_two_pow (Nat.ne_of_gt hn))
  have hmatch : (s.wt.ctc && decide (0 = s.wt.cmp)) = false := by
    cases hctc : s.wt.ctc with
    | false => rfl
    | true => exact decide_eq_false (Ne.symm (hcmp hctc))
  simp [tickedCount, hcnt, hmatch, hone]

/-- Settles O29: the tick finds the count that the first step cleared, and the steps after it leave it. -/
theorem secondWindowSkewedByTick : Obligations.SecondWindowSkewedByTick := by
  intro s hb hf hk hh ht hn hcmp
  obtain ⟨-, hsteps⟩ := synchronizedStartSteps
  obtain ⟨hclear, -⟩ := hsteps s
  let s₁ : State := { s with wt.cnt := 0, seq.step := 1 }
  have hmove := clkStep_hardwareMove s₁
  have hcnt : (clkStep s₁).wt.cnt = 1 :=
    (congrArg WindowTimer.cnt (clkStep_wt_of_tapTicks (s := s₁) hh ht)).trans (tickedCount_of_zero rfl hn hcmp)
  have hfetched : (clkStep s₁).fetched = .ok .wtStart := by
    rw [State.fetched, hmove.cfg, hmove.seq]
    exact hf
  have hrun : runMoves [.seq, .clk, .seq, .seq, .seq, .seq, .seq] s =
      runMoves [.seq, .seq, .seq, .seq, .seq] (clkStep s₁) := by
    rw [runMoves_seq hb hf (hclear hk), runMoves_cons]
    rfl
  exact ⟨_, hrun.trans (runMoves_wtStart_rest (hmove.seq ▸ hb) hfetched (hmove.seq ▸ rfl)), hcnt, rfl, rfl⟩

/-! ### The start by five commands -/

/-- 10_state.md R28: an idle block that has accepted a command. -/
def accepted (bytes : List Byte) (s : State) : State :=
  { s with seq.busy := true, seq.op := bytes, seq.step := 0, seq.space := .host }

theorem runMoves_command {s : State} (hidle : s.seq.busy = false) (bytes : List Byte) (ms : List Move) :
    runMoves (.command bytes :: ms) s = runMoves ms (accepted bytes s) := by
  have hmove : takeMove (.command bytes) s = .next (accepted bytes s) := by
    simp [takeMove, State.accept, hidle, accepted]
  rw [runMoves_cons, hmove, andThen]

/-- 42_sync_start.md R141 to R145: a register write of one of the five controls, `w` of the Window Timer and `y` of the
prescaler and the hold. -/
def writeTiming (w : WindowTimer → WindowTimer) (y : Prescaler → Prescaler) (s : State) : State :=
  { s with wt := w s.wt, sync := y s.sync }

/-- 42_sync_start.md R149: `t` is the idle block that commands have left, after the register writes `w` and `y` and the
responses `rs`, the newest first. -/
structure ControlsDone (w : WindowTimer → WindowTimer) (y : Prescaler → Prescaler) (rs : List (List Byte))
    (s t : State) : Prop where
  idle : t.seq.busy = false
  cfg : t.cfg = s.cfg
  pc : t.pc = s.pc
  wt : t.wt = w s.wt
  sync : t.sync = y s.sync
  evt : t.evt = s.evt
  responses : t.out.responses = rs ++ s.out.responses

/-- 42_sync_start.md R149: more commands, from the idle block that the first ones left. -/
theorem ControlsDone.trans {w w' : WindowTimer → WindowTimer} {y y' : Prescaler → Prescaler}
    {rs rs' : List (List Byte)} {s t u : State} (h : ControlsDone w y rs s t) (h' : ControlsDone w' y' rs' t u) :
    ControlsDone (w' ∘ w) (y' ∘ y) (rs' ++ rs) s u where
  idle := h'.idle
  cfg := h'.cfg.trans h.cfg
  pc := h'.pc.trans h.pc
  wt := h'.wt.trans (congrArg w' h.wt)
  sync := h'.sync.trans (congrArg y' h.sync)
  evt := h'.evt.trans h.evt
  responses := by rw [h'.responses, h.responses, List.append_assoc]

section Commands

variable {i : Instr} {s : State} {bytes : List Byte} (w : WindowTimer → WindowTimer) (y : Prescaler → Prescaler)
  (hidle : s.seq.busy = false) (hdecode : decodeCommand bytes = .ok i)

include hidle hdecode

/-- A control without operand, from its acceptance to its response. -/
theorem runMoves_control (hi : ∀ u, primStepsOf i u = [write (writeTiming w y), respondOk]) (ms : List Move) :
    ∃ t, runMoves (.command bytes :: .seq :: .seq :: ms) s = runMoves ms t ∧ ControlsDone w y [[0x00]] s t := by
  let begun := accepted bytes s
  let written : State := { writeTiming w y begun with seq.step := 1 }
  obtain ⟨hwrite, -⟩ := exec_control (hi begun) rfl
  obtain ⟨-, hrespond⟩ := exec_control (hi written) rfl
  refine ⟨ended 0x00 [] written, ?_, rfl, rfl, rfl, rfl, rfl, rfl, rfl⟩
  calc runMoves (.command bytes :: .seq :: .seq :: ms) s
    _ = runMoves (.seq :: .seq :: ms) begun := runMoves_command hidle _ _
    _ = runMoves (.seq :: ms) written := runMoves_seq (s := begun) rfl hdecode (hwrite rfl)
    _ = runMoves ms (ended 0x00 [] written) := runMoves_seq (s := written) rfl hdecode (hrespond rfl)

/-- A control whose operand passes its check, from its acceptance to its response. -/
theorem runMoves_checked {bad : State → Bool} (hgood : bad (accepted bytes s) = false)
    (hi : ∀ u, primStepsOf i u = [illegalIf bad, write (writeTiming w y), respondOk]) (ms : List Move) :
    ∃ t, runMoves (.command bytes :: .seq :: .seq :: .seq :: ms) s = runMoves ms t ∧
      ControlsDone w y [[0x00]] s t := by
  let begun := accepted bytes s
  let passed : State := { begun with seq.step := 1 }
  let written : State := { writeTiming w y passed with seq.step := 2 }
  obtain ⟨-, hcheck, -⟩ := exec_checked (hi begun) rfl
  obtain ⟨-, -, hwrite, -⟩ := exec_checked (hi passed) rfl
  obtain ⟨-, -, -, hrespond⟩ := exec_checked (hi written) rfl
  refine ⟨ended 0x00 [] written, ?_, rfl, rfl, rfl, rfl, rfl, rfl, rfl⟩
  calc runMoves (.command bytes :: .seq :: .seq :: .seq :: ms) s
    _ = runMoves (.seq :: .seq :: .seq :: ms) begun := runMoves_command hidle _ _
    _ = runMoves (.seq :: .seq :: ms) passed := runMoves_seq (s := begun) rfl hdecode (hcheck rfl hgood)
    _ = runMoves (.seq :: ms) written := runMoves_seq (s := passed) rfl hdecode (hwrite rfl)
    _ = runMoves ms (ended 0x00 [] written) := runMoves_seq (s := written) rfl hdecode (hrespond rfl)

end Commands

/-- Settles O28: the five commands one after the other, each from an idle block to an idle block. -/
theorem startByPartsLeavesPulseCount : Obligations.StartByPartsLeavesPulseCount := by
  intro s c hidle hkey
  obtain ⟨s₁, hrun₁, h₁⟩ := runMoves_control (i := .wtClr) (bytes := [0x20])
    ({ · with cnt := 0 }) id hidle rfl (fun _ => rfl) _
  obtain ⟨s₂, hrun₂, h₂⟩ := runMoves_control (i := .syncHold) (bytes := [0x21])
    id ({ · with hold := true }) h₁.idle rfl (fun _ => rfl) _
  have hgood : badClockSelect s₂.cfg c = false :=
    badClockSelect_eq_false_iff.mpr (.inr (by rwa [h₂.cfg, h₁.cfg]))
  obtain ⟨s₃, hrun₃, h₃⟩ := runMoves_checked (i := .wtSetcs c) (bytes := [0x22, c])
    ({ · with cs := c.extractLsb' 0 3 }) id h₂.idle rfl hgood (fun _ => rfl) _
  obtain ⟨s₄, hrun₄, h₄⟩ := runMoves_control (i := .pscReset) (bytes := [0x23])
    id ({ · with psc := 0 }) h₃.idle rfl (fun _ => rfl) _
  obtain ⟨s₅, hrun₅, h₅⟩ := runMoves_control (i := .syncRelease) (bytes := [0x24])
    id ({ · with hold := false }) h₄.idle rfl (fun _ => rfl) []
  obtain ⟨-, -, hpc, hwt, hsync, hevt, hresponses⟩ := (((h₁.trans h₂).trans h₃).trans h₄).trans h₅
  exact ⟨_, hrun₁.trans (hrun₂.trans (hrun₃.trans (hrun₄.trans hrun₅))), hwt, hsync, hpc, hevt, hresponses⟩

end Sys2Proof.Machine

/-! ## The SPI Link

43_spi_link.md: the operations step by step, the bit step, what the link touches, a hang, and
the receiver's view of the pins.
-/

namespace Sys2Proof.Machine

/-! ### SPI_WRITE8 and SPI_WRITE16, step by step -/

/-- Settles O32: the frame of one byte, or of the two bytes of the word, and the response. -/
theorem spiWriteSteps : Obligations.SpiWriteSteps := by
  refine ⟨fun _ => rfl, fun _ _ => rfl, fun s b => ⟨?_, ?_, ?_, ?_, ?_⟩, fun s w => ⟨?_, ?_⟩⟩
  · exact fun hk => exec_of_getElem? (g := assertCs) hk rfl
  · exact fun hk => exec_of_getElem? (g := loadByte fun _ => b) hk rfl
  · exact fun hk => (exec_of_getElem? (g := waitTransfer) hk rfl).trans (waitTransfer_eq s)
  · exact fun hk => exec_of_getElem? (g := releaseCs) hk rfl
  · exact fun hk => exec_respondOk hk rfl
  · exact performStep_wordFrame _ _ _
  · exact fun hk => exec_respondOk hk rfl

/-! ### One bit step -/

/-- 43_spi_link.md R164: the engine moves only while a byte is in flight. -/
theorem engBitStep_of_quiet {s : State} (hb : s.spi.busy = false) : engBitStep s = s := by
  simp [engBitStep, hb]

/-- 43_spi_link.md R168: the engine moves only while `spi_ready` holds. -/
theorem engBitStep_of_not_ready {s : State} (hr : s.env.spiReady = false) : engBitStep s = s := by
  simp [engBitStep, hr]

theorem engBitStep_of_enabled {s : State} (hb : s.spi.busy = true) (hr : s.env.spiReady = true) :
    engBitStep s = { s.shiftPins (shiftedBit s) with
      spi.bitcnt := s.spi.bitcnt + 1, spi.busy := decide (s.spi.bitcnt + 1 ≠ 8) } := by
  simp [engBitStep, hb, hr]

/-- 20_memory.md R54: the bit that leaves is that of the configured order. -/
theorem shiftedBit_eq (s : State) :
    shiftedBit s = s.spi.sr.getLsbD (if s.cfg.lsbFirst = true then s.spi.bitcnt else 7 - s.spi.bitcnt) := by
  unfold shiftedBit
  split <;> rfl

/-- Settles O34: the pin writes of `shiftPins_spec`, the newest first, with the bit of the configured order. -/
theorem engineBitStep : Obligations.EngineBitStep := by
  refine fun s => ⟨fun h => h.elim engBitStep_of_quiet engBitStep_of_not_ready, fun b hb hr hbit => ?_⟩
  rw [engBitStep_of_enabled hb hr, shiftedBit_eq, ← hbit, shiftPins_spec]
  cases s.cfg.cpha <;> rfl


/-! ### The receiver's view and the pins -/

theorem receiverAgrees_iff {s : State} :
    s.receiverAgrees = true ↔ (received s.cfg s.out.pinTrace).selected = (s.spi.cs == csActive s.cfg) ∧
      (received s.cfg s.out.pinTrace).sck = s.spi.sck ∧ (received s.cfg s.out.pinTrace).mosi = s.spi.mosi := by
  simp [State.receiverAgrees, and_assoc]

/-- A write of the event flags is nothing to the receiver. -/
theorem received_setEvt (v : BitVec 3) (s : State) :
    received s.cfg (s.setEvt v).out.pinTrace = received s.cfg s.out.pinTrace := by
  rw [State.setEvt_pinTrace]
  split <;> rfl

/-- `t` has the pins of `s`, and the receiver has seen nothing new. -/
structure SamePins (s t : State) : Prop where
  cfg : t.cfg = s.cfg
  cs : t.spi.cs = s.spi.cs
  sck : t.spi.sck = s.spi.sck
  mosi : t.spi.mosi = s.spi.mosi
  seen : received s.cfg t.out.pinTrace = received s.cfg s.out.pinTrace

theorem SamePins.refl (s : State) : SamePins s s := ⟨rfl, rfl, rfl, rfl, rfl⟩

theorem SamePins.receiverAgrees {s t : State} (h : SamePins s t) (hs : s.receiverAgrees = true) :
    t.receiverAgrees = true := by
  rw [receiverAgrees_iff] at hs ⊢
  rwa [h.cfg, h.cs, h.sck, h.mosi, h.seen]

theorem SamePins.setEvt {s t : State} (h : SamePins s t) (v : BitVec 3) : SamePins s (t.setEvt v) where
  cfg := by simpa using h.cfg
  cs := by simpa using h.cs
  sck := by simpa using h.sck
  mosi := by simpa using h.mosi
  seen := by rw [← h.seen, ← h.cfg, received_setEvt]

theorem SamePins.fireEvent {s t : State} (h : SamePins s t) (i : Nat) : SamePins s (t.fireEvent i) := h.setEvt _

theorem edgeStep_samePins (s : State) : SamePins s (edgeStep s) := by
  rcases edgeStep_cases s with h | ⟨-, -, h | h⟩ <;> rw [h]
  · exact .refl s
  · exact ⟨rfl, rfl, rfl, rfl, rfl⟩
  · refine SamePins.fireEvent (s := s) ?_ _
    exact ⟨rfl, rfl, rfl, rfl, rfl⟩

theorem clkStep_samePins (s : State) : SamePins s (clkStep s) := by
  rcases clkStep_cases s with ⟨-, h⟩ | ⟨-, h | ⟨-, h⟩⟩ <;> rw [h]
  · exact .refl s
  · exact ⟨rfl, rfl, rfl, rfl, rfl⟩
  · rcases wtTick_cases { s with sync.psc := (s.sync.psc + 1) % 2 ^ s.cfg.pscBits } with h' | h' <;> rw [h']
    · exact ⟨rfl, rfl, rfl, rfl, rfl⟩
    · refine SamePins.fireEvent (s := s) ?_ _
      exact ⟨rfl, rfl, rfl, rfl, rfl⟩

theorem dtStep_samePins (s : State) : SamePins s (dtStep s) := by
  rcases dtStep_cases s with h | h <;> rw [h]
  · exact ⟨rfl, rfl, rfl, rfl, rfl⟩
  · refine SamePins.fireEvent (s := s) ?_ _
    exact ⟨rfl, rfl, rfl, rfl, rfl⟩

theorem RegisterWrite.samePins {i : Instr} {s u : State} (h : RegisterWrite i s u) : SamePins s u := by
  cases h with
  | evtAck s v hk => exact (SamePins.refl s).setEvt _
  | shadow i s hw => exact ⟨by simp, by simp, by simp, by simp, by simp⟩
  | _ => exact ⟨rfl, rfl, rfl, rfl, rfl⟩

theorem accept_samePins (bytes : List Byte) (s : State) : SamePins s (s.accept bytes) := by
  constructor <;> simp

theorem receiverAgrees_driveCs {s : State} (h : s.receiverAgrees = true) (level : Bool) :
    (s.driveCs level).receiverAgrees = true := by
  rw [receiverAgrees_iff] at h ⊢
  obtain ⟨hsel, hsck, hmosi⟩ := h
  by_cases hl : level = csActive s.cfg
  · simp [Receiver.see, hl, hsck, hmosi]
  · cases hs : (received s.cfg s.out.pinTrace).selected <;> simp [Receiver.see, hl, hs, hsck, hmosi]

theorem receiverAgrees_driveSck {s : State} (h : s.receiverAgrees = true) (level : Bool) :
    (s.driveSck level).receiverAgrees = true := by
  rw [receiverAgrees_iff] at h ⊢
  obtain ⟨hsel, hsck, hmosi⟩ := h
  simp only [State.driveSck_cfg, State.driveSck_out, State.driveSck_spi, received_cons, Receiver.see]
  split
  · exact ⟨hsel, rfl, hmosi⟩
  · exact ⟨hsel, rfl, hmosi⟩

theorem receiverAgrees_driveMosi {s : State} (h : s.receiverAgrees = true) (level : Bool) :
    (s.driveMosi level).receiverAgrees = true := by
  rw [receiverAgrees_iff] at h ⊢
  obtain ⟨hsel, hsck, -⟩ := h
  exact ⟨hsel, hsck, rfl⟩

theorem receiverAgrees_shiftPins {s : State} (h : s.receiverAgrees = true) (bit : Bool) :
    (s.shiftPins bit).receiverAgrees = true := by
  unfold State.shiftPins
  split
  · exact receiverAgrees_driveSck (receiverAgrees_driveMosi (receiverAgrees_driveSck h _) _) _
  · exact receiverAgrees_driveSck (receiverAgrees_driveSck (receiverAgrees_driveMosi h _) _) _

theorem engBitStep_receiverAgrees {s : State} (h : s.receiverAgrees = true) :
    (engBitStep s).receiverAgrees = true := by
  rcases engBitStep_cases s with he | ⟨-, -, he⟩ <;> rw [he]
  · exact h
  · exact SamePins.receiverAgrees ⟨rfl, rfl, rfl, rfl, rfl⟩ (receiverAgrees_shiftPins h (shiftedBit s))

theorem applyReset_receiverAgrees (s : State) : s.applyReset.receiverAgrees = true := by
  simp [receiverAgrees_iff, State.applyReset_spi, State.resetWith, Receiver.see, csActive]

theorem FrameStep.receiverAgrees {s t : State} {n j : Nat} (h : FrameStep s n j t)
    (hs : s.receiverAgrees = true) : t.receiverAgrees = true := by
  cases h with
  | assertCs => exact receiverAgrees_driveCs hs _
  | releaseCs => exact receiverAgrees_driveCs hs _
  | loadByte | waiting | waited => exact hs

theorem Performs.receiverAgrees {i : Instr} {s t : State} (h : Performs i s t)
    (hs : s.receiverAgrees = true) : t.receiverAgrees = true := by
  cases h with
  | frame hf hk h => exact h.receiverAgrees hs
  | registers h hg hw => exact h.samePins.receiverAgrees hs
  | keepValue | respond | endJob => exact hs

/-- Every move keeps the receiver's view in agreement with the pins. -/
theorem takeMove_receiverAgrees {m : Move} {s t : State} (h : takeMove m s = .next t)
    (hs : s.receiverAgrees = true) : t.receiverAgrees = true := by
  cases m with
  | seq =>
    rcases seqStep_cases h with ⟨-, rfl⟩ | ⟨-, -, rfl⟩ | ⟨-, i, -, hp⟩
    · exact hs
    · exact hs
    · exact hp.receiverAgrees hs
  | clk => exact Host.Outcome.next.inj h ▸ (clkStep_samePins s).receiverAgrees hs
  | edge => exact Host.Outcome.next.inj h ▸ (edgeStep_samePins s).receiverAgrees hs
  | dt => exact Host.Outcome.next.inj h ▸ (dtStep_samePins s).receiverAgrees hs
  | eng => exact Host.Outcome.next.inj h ▸ engBitStep_receiverAgrees hs
  | command bytes => exact Host.Outcome.next.inj h ▸ (accept_samePins bytes s).receiverAgrees hs
  | spiReady ready => exact Host.Outcome.next.inj h ▸ hs
  | readOrder loFirst => exact Host.Outcome.next.inj h ▸ hs
  | reset => exact Host.Outcome.next.inj h ▸ applyReset_receiverAgrees s

/-- Settles O55: a step is a move on the state without that move, of which the receiver knows nothing. -/
theorem everyStepKeepsReceiver : Obligations.EveryStepKeepsReceiver := by
  intro s t hs h
  have hpop : s.popMove.receiverAgrees = true := hs
  exact takeMove_receiverAgrees (step_eq s ▸ h) hpop

/-! ### What the link touches and reads -/

/-- The primitive step `f` changes nothing but the link, the sequencer and the observations, and does the same with
other contents in the other units. -/
structure LinkOnly (f : PrimStep) : Prop where
  touches : ∀ s t, f s = .next t → t = { s with spi := t.spi, seq := t.seq, out := t.out }
  reads : ∀ x s, f (withUnitsOf x s) = onNext (withUnitsOf x) (f s)

theorem linkOnly_assertCs : LinkOnly assertCs := ⟨by rintro s t ⟨⟩; rfl, fun _ _ => rfl⟩

theorem linkOnly_releaseCs : LinkOnly releaseCs := ⟨by rintro s t ⟨⟩; rfl, fun _ _ => rfl⟩

theorem linkOnly_loadByte (b : Byte) : LinkOnly (loadByte fun _ => b) := ⟨by rintro s t ⟨⟩; rfl, fun _ _ => rfl⟩

theorem linkOnly_respondOk : LinkOnly respondOk := ⟨by rintro s t ⟨⟩; rfl, fun _ _ => rfl⟩

theorem linkOnly_endJob : LinkOnly fun s => .next s.advance.idle := ⟨by rintro s t ⟨⟩; rfl, fun _ _ => rfl⟩

theorem linkOnly_waitTransfer : LinkOnly waitTransfer where
  touches s t h := by
    rcases waitTransfer_cases s with ⟨-, h'⟩ | ⟨-, h'⟩ <;> cases h'.symm.trans h <;> rfl
  reads x s := by
    have hspi := withUnitsOf_spi x s
    rcases waitTransfer_cases s with ⟨hb, h⟩ | ⟨hb, h⟩ <;> rw [h, waitTransfer, hspi, hb] <;> rfl

/-- 43_spi_link.md R163: the steps of a frame of given bytes. -/
theorem linkOnly_spiFrame (bytes : List Byte) : ∀ f ∈ spiFrame (bytes.map fun b _ => b), LinkOnly f := by
  refine List.forall_mem_cons.mpr ⟨linkOnly_assertCs, List.forall_mem_append.mpr ⟨fun f hf => ?_, ?_⟩⟩
  · obtain ⟨_, hb, hf⟩ := List.mem_flatMap.mp hf
    obtain ⟨b, -, rfl⟩ := List.mem_map.mp hb
    exact List.forall_mem_cons.mpr ⟨linkOnly_loadByte b, List.forall_mem_singleton.mpr linkOnly_waitTransfer⟩ f hf
  · exact List.forall_mem_singleton.mpr linkOnly_releaseCs

/-- 30_encoding.md R79: a wire word is the frame of a word whose command-type code is a parameter. -/
theorem primStepsOf_wire {i : Instr} (hi : i.space = .wire) :
    ∃ w : Params → Word, ∀ u, primStepsOf i u = wireFrame (w u.cfg) := by
  cases i with
  | wireWrite a d => exact ⟨fun p => wireWord a p.cmdWrite d, fun _ => rfl⟩
  | wireIncr a d => exact ⟨fun p => wireWord a p.cmdIncr d, fun _ => rfl⟩
  | wireDecr a d => exact ⟨fun p => wireWord a p.cmdDecr d, fun _ => rfl⟩
  | wireRead a d => exact ⟨fun p => wireWord a p.cmdRead d, fun _ => rfl⟩
  | _ => cases hi

/-- An operation of the link is a frame of bytes that only the parameters bear on, and one step more. -/
theorem primStepsOf_link {i : Instr}
    (hi : (∃ b, i = .spiWrite8 b) ∨ (∃ w, i = .spiWrite16 w) ∨ i.space = .wire) :
    ∃ (bytes : Params → List Byte) (last : PrimStep), LinkOnly last ∧
      ∀ u, primStepsOf i u = spiFrame ((bytes u.cfg).map fun b _ => b) ++ [last] := by
  rcases hi with ⟨b, rfl⟩ | ⟨w, rfl⟩ | hw
  · exact ⟨fun _ => [b], _, linkOnly_respondOk, fun _ => rfl⟩
  · exact ⟨fun _ => [hiByte w, loByte w], _, linkOnly_respondOk, fun _ => rfl⟩
  · obtain ⟨w, hw⟩ := primStepsOf_wire hw
    exact ⟨fun p => [hiByte (w p), loByte (w p)], _, linkOnly_endJob, fun u => hw u⟩

/-- An operation made of such steps is one itself. -/
theorem linkOnly_performStep {steps : List PrimStep} (h : ∀ f ∈ steps, LinkOnly f) :
    LinkOnly (performStep steps) where
  touches s t ht := by
    obtain ⟨f, hf, hft⟩ := performStep_next ht
    exact (h f (List.mem_of_getElem? hf)).touches s t hft
  reads x s := by
    simp only [performStep, withUnitsOf_seq]
    cases hf : steps[s.seq.step]? with
    | none => rfl
    | some f => exact (h f (List.mem_of_getElem? hf)).reads x s

theorem linkOnly_exec {i : Instr} (hi : (∃ b, i = .spiWrite8 b) ∨ (∃ w, i = .spiWrite16 w) ∨ i.space = .wire) :
    LinkOnly (exec i) := by
  obtain ⟨bytes, last, hlast, hsteps⟩ := primStepsOf_link hi
  have hexec (u : State) : exec i u = performStep (spiFrame ((bytes u.cfg).map fun b _ => b) ++ [last]) u := by
    rw [exec_eq_performStep, hsteps]
  have hperform (p : Params) : LinkOnly (performStep (spiFrame ((bytes p).map fun b _ => b) ++ [last])) :=
    linkOnly_performStep (List.forall_mem_append.mpr ⟨linkOnly_spiFrame _, List.forall_mem_singleton.mpr hlast⟩)
  constructor
  · intro s t h
    exact (hperform s.cfg).touches s t (hexec s ▸ h)
  · intro x s
    rw [hexec, hexec]
    exact (hperform s.cfg).reads x s

/-- 43_spi_link.md R171: the engine reads nothing of the other units. -/
theorem engBitStep_withUnitsOf (x s : State) : engBitStep (withUnitsOf x s) = withUnitsOf x (engBitStep s) := by
  cases hb : s.spi.busy with
  | false => rw [engBitStep_of_quiet hb, engBitStep_of_quiet (s := withUnitsOf x s) hb]
  | true =>
    cases hr : s.env.spiReady with
    | false => rw [engBitStep_of_not_ready hr, engBitStep_of_not_ready (s := withUnitsOf x s) hr]
    | true =>
      rw [engBitStep_of_enabled hb hr, engBitStep_of_enabled (s := withUnitsOf x s) hb hr, shiftPins_spec,
        shiftPins_spec]
      rfl

/-- Settles O59: each step of an operation of the link is `LinkOnly`, and the engine goes by the link, its parameters
and `spi_ready`. -/
theorem linkTouchesNothingElse : Obligations.LinkTouchesNothingElse := by
  refine ⟨fun i s hi => ⟨(linkOnly_exec hi).touches s, fun x => (linkOnly_exec hi).reads x s⟩, fun s => ⟨?_, ?_⟩⟩
  · rintro t ⟨⟩
    exact engBitStep_kept s
  · exact fun x => congrArg Host.Outcome.next (engBitStep_withUnitsOf x s)

/-! ### A hang -/

/-- 43_spi_link.md R169: a byte is in flight only inside the frame of an operation, at a wait step, with chip-select
active. -/
theorem waiting_of_inFlight {s : State} (hs : s.Inv) (hb : s.spi.busy = true) :
    s.seq.busy = true ∧ s.spi.cs = csActive s.cfg ∧
    ∃ i, s.fetched = .ok i ∧ isWait i s.seq.step = true ∧ s.seq.step < stepCount s.cfg i := by
  obtain ⟨-, -, hstep⟩ := inv_iff.mp hs
  cases hq : s.seq.busy with
  | false => exact absurd (((inStep_idle hq).mp hstep).quiet.symm.trans hb) Bool.false_ne_true
  | true =>
    cases hf : s.fetched with
    | error e =>
      obtain ⟨-, hlink⟩ := (inStep_error hq hf).mp hstep
      exact absurd (hlink.quiet.symm.trans hb) Bool.false_ne_true
    | ok i =>
      obtain ⟨⟨hlt, -⟩, hlink⟩ := (inStep_running hq hf).mp hstep
      obtain ⟨hw, -⟩ := hlink.busy hb
      have hin : inFrame i s.seq.step = true := by
        cases hin : inFrame i s.seq.step with
        | true => rfl
        | false => exact absurd ((isWait_of_not_inFrame hin).symm.trans hw) Bool.false_ne_true
      exact ⟨rfl, by simpa [hin] using hlink.cs, i, rfl, hw, hlt⟩

/-- 43_spi_link.md R167: while a byte is in flight a move of SEQ changes nothing. -/
theorem seqStep_of_inFlight {s : State} (hs : s.Inv) (hb : s.spi.busy = true) : seqStep s = .next s := by
  obtain ⟨hq, -, i, hf, hw, hlt⟩ := waiting_of_inFlight hs hb
  obtain ⟨hanswer, -⟩ := everyInstructionAnswers i s
  obtain ⟨t, ht⟩ := hanswer hlt
  obtain ⟨hstay, -⟩ := primitiveStepAdvances i s t ht
  rw [seqStep_of_fetched hq hf, ht, hstay ⟨hb, hw⟩]

/-- `t` is in the hang of `s`: the operation and the link stand where they stood, and `spi_ready` is still false. -/
structure SameHang (s t : State) : Prop where
  ready : t.env.spiReady = false
  seq : t.seq = s.seq
  spi : t.spi = s.spi
  dp : t.dp = s.dp
  responses : t.out.responses = s.out.responses

theorem SameHang.trans {s t u : State} (h : SameHang s t) (h' : SameHang t u) : SameHang s u :=
  ⟨h'.ready, h'.seq.trans h.seq, h'.spi.trans h.spi, h'.dp.trans h.dp, h'.responses.trans h.responses⟩

theorem HardwareMove.sameHang {s t : State} (h : HardwareMove s t) (hr : s.env.spiReady = false) : SameHang s t :=
  ⟨h.env ▸ hr, h.seq, h.spi, h.dp, h.responses⟩

/-- 43_spi_link.md R168: with a byte in flight and `spi_ready` false every move leaves the hang as it is. -/
theorem takeMove_sameHang {m : Move} {s : State} (hs : s.Inv) (hb : s.spi.busy = true)
    (hr : s.env.spiReady = false) (hreset : m ≠ .reset) (hready : m ≠ .spiReady true) :
    ∃ t, takeMove m s = .next t ∧ SameHang s t := by
  have hsame : SameHang s s := ⟨hr, rfl, rfl, rfl, rfl⟩
  obtain ⟨hq, -⟩ := waiting_of_inFlight hs hb
  cases m with
  | seq => exact ⟨s, seqStep_of_inFlight hs hb, hsame⟩
  | clk => exact ⟨_, rfl, (clkStep_hardwareMove s).sameHang hr⟩
  | edge => exact ⟨_, rfl, (edgeStep_hardwareMove s).sameHang hr⟩
  | dt => exact ⟨_, rfl, (dtStep_hardwareMove s).sameHang hr⟩
  | eng => exact ⟨s, congrArg Host.Outcome.next (engBitStep_of_not_ready hr), hsame⟩
  | command bytes => exact ⟨s, congrArg Host.Outcome.next (accept_of_busy bytes hq), hsame⟩
  | spiReady ready =>
    cases ready with
    | false => exact ⟨_, rfl, rfl, rfl, rfl, rfl, rfl⟩
    | true => exact absurd rfl hready
  | readOrder loFirst => exact ⟨_, rfl, hr, rfl, rfl, rfl, rfl⟩
  | reset => exact absurd rfl hreset

theorem runMoves_sameHang {s : State} {ms : List Move} (hs : s.Inv) (hb : s.spi.busy = true)
    (hr : s.env.spiReady = false) (hreset : .reset ∉ ms) (hready : .spiReady true ∉ ms) :
    ∃ t, runMoves ms s = .next t ∧ SameHang s t := by
  induction ms generalizing s with
  | nil => exact ⟨_, runMoves_nil s, hr, rfl, rfl, rfl, rfl⟩
  | cons m ms ih =>
    obtain ⟨hm, hms⟩ := not_or.mp (mt List.mem_cons.mpr hreset)
    obtain ⟨hm', hms'⟩ := not_or.mp (mt List.mem_cons.mpr hready)
    obtain ⟨u, hu, hsu⟩ := takeMove_sameHang hs hb hr (Ne.symm hm) (Ne.symm hm')
    obtain ⟨t, ht, hut⟩ := ih (takeMove_inv hu hs) (hsu.spi ▸ hb) hsu.ready hms hms'
    exact ⟨t, by rw [runMoves_cons, hu, andThen, ht], hsu.trans hut⟩

/-- Settles O36: the hang is the same after every move, so the operation is in progress and chip-select active at the
end as at the beginning. -/
theorem hangNeverEnds : Obligations.HangNeverEnds := by
  intro s ms hs hb hr hreset hready
  obtain ⟨hq, hcs, -⟩ := waiting_of_inFlight hs hb
  obtain ⟨t, ht, h⟩ := runMoves_sameHang hs hb hr hreset hready
  exact ⟨t, ht, h.seq, h.seq ▸ hq, h.spi, h.spi ▸ hcs, h.dp, h.responses⟩

end Sys2Proof.Machine

/-! ## A write over the SPI Link

43_spi_link.md R163, R172: for every interleaving the receiver samples exactly the bits of the bytes written, in one frame.
-/

namespace Sys2Proof.Machine

/-! ### The steps of a frame by their offset -/

/-- 43_spi_link.md R163: each byte of a frame takes two steps, the start and the wait. -/
theorem getElem?_byteSteps {bytes : List (State → Byte)} {l : Nat} (hl : l < bytes.length) (rest : List PrimStep) :
    (bytes.flatMap byteSteps ++ rest)[2 * l]? = some (loadByte bytes[l]) ∧
    (bytes.flatMap byteSteps ++ rest)[2 * l + 1]? = some waitTransfer := by
  induction bytes generalizing l with
  | nil => exact absurd hl (Nat.not_lt_zero l)
  | cons b bytes ih =>
    cases l with
    | zero => exact ⟨rfl, rfl⟩
    | succ l => exact ih (Nat.lt_of_succ_lt_succ hl)

theorem length_byteSteps (bytes : List (State → Byte)) : (bytes.flatMap byteSteps).length = 2 * bytes.length := by
  induction bytes with
  | nil => rfl
  | cons b bytes ih =>
    rw [List.flatMap_cons, List.length_append, ih, List.length_cons, byteSteps]
    simp only [List.length_cons, List.length_nil]
    omega

section Offsets

variable {bytes : List (State → Byte)} {l : Nat}

theorem spiFrame_loadByte (hl : l < bytes.length) : (spiFrame bytes)[2 * l + 1]? = some (loadByte bytes[l]) :=
  (getElem?_byteSteps hl [releaseCs]).1

theorem spiFrame_waitTransfer (hl : l < bytes.length) : (spiFrame bytes)[2 * l + 2]? = some waitTransfer :=
  (getElem?_byteSteps hl [releaseCs]).2

theorem spiFrame_releaseCs : (spiFrame bytes)[2 * bytes.length + 1]? = some releaseCs := by
  rw [spiFrame, List.getElem?_cons_succ, List.getElem?_append_right (length_byteSteps bytes).le, length_byteSteps,
    Nat.sub_self]
  rfl

theorem length_spiFrame : (spiFrame bytes).length = 2 * bytes.length + 2 := by
  rw [spiFrame, List.length_cons, List.length_append, length_byteSteps, List.length_singleton]

end Offsets

/-! ### What the receiver has seen of a frame -/

theorem length_byteBits (p : Params) (b : Byte) : (byteBits p b).length = 8 := by simp [byteBits]

/-- The bits of bytes in the order in which they leave (20_memory.md R53, R54). -/
def bytesBits (p : Params) (bytes : List Byte) : List Bool := bytes.flatMap (byteBits p)

/-- The first `l + 1` bytes are the first `l` and byte `l`. -/
theorem bytesBits_take_succ (p : Params) {bytes : List Byte} {l : Nat} (hl : l < bytes.length) :
    bytesBits p (bytes.take (l + 1)) = bytesBits p (bytes.take l) ++ byteBits p bytes[l] := by
  rw [bytesBits, List.take_succ_eq_append_getElem hl, List.flatMap_append, List.flatMap_singleton]
  rfl

/-- No byte is in flight, and the receiver, which is not selected, has completed `frames` and seen `n` writes of
chip-select. -/
def LinkQuiet (frames : List (List Bool)) (n : Nat) (u : State) : Prop :=
  u.spi.busy = false ∧ u.seenAs false [] frames n

/-- The receiver has seen no more in `u` than in `s`. -/
def FrameToCome (s u : State) : Prop :=
  LinkQuiet (received s.cfg s.out.pinTrace).frames (s.out.pinTrace.countP isCsWrite) u

/-- After `s` the receiver has sampled `bits` in a frame that is still open. -/
def FrameOpen (s : State) (bits : List Bool) (u : State) : Prop :=
  u.seenAs true bits (received s.cfg s.out.pinTrace).frames (s.out.pinTrace.countP isCsWrite + 1)

/-- After `s` the receiver has seen one frame, of exactly the bits of `bytes`. -/
def FrameDone (s : State) (bytes : List Byte) (u : State) : Prop :=
  LinkQuiet (bytesBits s.cfg bytes :: (received s.cfg s.out.pinTrace).frames) (s.out.pinTrace.countP isCsWrite + 2) u

/-- 43_spi_link.md R163, R164: where the frame of `bytes` that began after `s` stands in `u`, the index of whose first
step is `a`: before it, between two bytes, in a byte of which the engine has sent some bits, or after it. -/
inductive Framed (s : State) (a : Nat) (bytes : List Byte) (u : State) : Prop
  | before (hk : u.seq.step = a) (h : FrameToCome s u)
  | between {l : Nat} (hl : l ≤ bytes.length) (hk : u.seq.step = a + (2 * l + 1)) (hb : u.spi.busy = false)
      (h : FrameOpen s (bytesBits s.cfg (bytes.take l)) u)
  | sending {l : Nat} (hl : l < bytes.length) (hk : u.seq.step = a + (2 * l + 2)) (hsr : u.spi.sr = bytes[l])
      (hbit : u.spi.bitcnt ≤ 8) (hb : u.spi.busy = decide (u.spi.bitcnt ≠ 8))
      (h : FrameOpen s (bytesBits s.cfg (bytes.take l) ++ (byteBits s.cfg bytes[l]).take u.spi.bitcnt) u)
  | after (hk : u.seq.step = a + (2 * bytes.length + 2)) (h : FrameDone s bytes u)

/-- `t` is `u` after a step of the frame: only the link, the pin trace and `SEQ_STEP` may differ. -/
def FrameKept (u t : State) : Prop :=
  t = { u with spi := t.spi, out.pinTrace := t.out.pinTrace, seq.step := t.seq.step }

/-- `t` differs from `u` neither in the sequencer nor in the link, and the receiver sees no difference. -/
structure LinkUnmoved (u t : State) : Prop where
  cfg : t.cfg = u.cfg
  seq : t.seq = u.seq
  spi : t.spi = u.spi
  responses : t.out.responses = u.out.responses
  seen : ∀ selected bits frames n, u.seenAs selected bits frames n → t.seenAs selected bits frames n

theorem HardwareMove.linkUnmoved {u t : State} (h : HardwareMove u t) : LinkUnmoved u t :=
  ⟨h.cfg, h.seq, h.spi, h.responses, h.seen⟩

/-- Only SEQ, SPIENG, RESET and the acceptance of a command move the sequencer or the link. -/
theorem takeMove_linkUnmoved {m : Move} {u t : State} (h : takeMove m u = .next t) (hseq : m ≠ .seq)
    (heng : m ≠ .eng) (hreset : m ≠ .reset) (hcommand : ∀ c, m ≠ .command c) : LinkUnmoved u t := by
  cases m with
  | seq => exact absurd rfl hseq
  | clk => exact Host.Outcome.next.inj h ▸ (clkStep_hardwareMove u).linkUnmoved
  | edge => exact Host.Outcome.next.inj h ▸ (edgeStep_hardwareMove u).linkUnmoved
  | dt => exact Host.Outcome.next.inj h ▸ (dtStep_hardwareMove u).linkUnmoved
  | eng => exact absurd rfl heng
  | command bytes => exact absurd rfl (hcommand bytes)
  | spiReady ready => exact Host.Outcome.next.inj h ▸ ⟨rfl, rfl, rfl, rfl, fun _ _ _ _ hs => hs⟩
  | readOrder loFirst => exact Host.Outcome.next.inj h ▸ ⟨rfl, rfl, rfl, rfl, fun _ _ _ _ hs => hs⟩
  | reset => exact absurd rfl hreset

theorem LinkUnmoved.linkQuiet {frames : List (List Bool)} {n : Nat} {u t : State} (hm : LinkUnmoved u t)
    (h : LinkQuiet frames n u) : LinkQuiet frames n t :=
  ⟨hm.spi ▸ h.1, hm.seen _ _ _ _ h.2⟩

section Framed

variable {s u : State} {a : Nat} {bytes : List Byte}

/-- 43_spi_link.md R163, R167: SEQ's step of the frame takes it to its next place, or waits for the byte in flight. -/
theorem Framed.seq (h : Framed s a bytes u) {fs : List (State → Byte)}
    (hfs : fs.map (· u) = bytes) (hend : u.seq.step < a + (2 * bytes.length + 2)) :
    ∃ j f t, u.seq.step = a + j ∧ (spiFrame fs)[j]? = some f ∧ f u = .next t ∧ FrameKept u t ∧
      Framed s a bytes t := by
  subst hfs
  rw [List.length_map] at hend
  cases h with
  | before hk h =>
    obtain ⟨hb, hw⟩ := h
    exact ⟨0, assertCs, _, hk, rfl, rfl, rfl,
      .between (l := 0) (Nat.zero_le _) (congrArg (· + 1) hk) hb (seenAs_assert hw)⟩
  | @between l hl hk hb h =>
    rw [List.length_map] at hl
    rcases Nat.lt_or_eq_of_le hl with hl | rfl
    · refine ⟨_, _, _, hk, spiFrame_loadByte hl, rfl, rfl,
        .sending (l := l) (by simpa using hl) (congrArg (· + 1) hk) (by simp) (Nat.zero_le 8) rfl ?_⟩
      rw [← List.append_nil (bytesBits s.cfg _)] at h
      exact h
    · refine ⟨_, _, _, hk, spiFrame_releaseCs, rfl, rfl,
        .after (by simp [hk]; rfl) ⟨hb, ?_⟩⟩
      have hbits := seenAs_release h
      rwa [List.take_of_length_le (by simp)] at hbits
  | @sending l hl hk hsr hbit hb h =>
    have hl' : l < fs.length := by simpa using hl
    rcases waitTransfer_cases u with ⟨hbusy, hwait⟩ | ⟨hquiet, hwait⟩
    · exact ⟨_, _, _, hk, spiFrame_waitTransfer hl', hwait, rfl, .sending hl hk hsr hbit hb h⟩
    · have hbits : u.spi.bitcnt = 8 := by simpa [hb] using hquiet
      refine ⟨_, _, _, hk, spiFrame_waitTransfer hl', hwait, rfl,
        .between (l := l + 1) hl (congrArg (· + 1) hk) hquiet ?_⟩
      rw [bytesBits_take_succ s.cfg hl]
      rwa [hbits, List.take_of_length_le (length_byteBits _ _).le] at h
  | after hk h =>
    rw [List.length_map] at hk
    omega

/-- 43_spi_link.md R164, R172: a bit step adds the next bit of the byte in flight. -/
theorem Framed.eng (h : Framed s a bytes u) (hcfg : u.cfg = s.cfg) : Framed s a bytes (engBitStep u) := by
  rcases engBitStep_cases u with he | ⟨hbusy, hready, he⟩ <;> rw [he]
  · exact h
  · have hquiet {p : Prop} (hb : u.spi.busy = false) : p := absurd (hb.symm.trans hbusy) Bool.false_ne_true
    cases h with
    | before hk h => exact hquiet h.1
    | between hl hk hb h => exact hquiet hb
    | after hk h => exact hquiet h.1
    | @sending l hl hk hsr hbit hb h =>
      have hlt : u.spi.bitcnt < 8 := Nat.lt_of_le_of_ne hbit (by simpa [hbusy] using hb)
      have hbitout : shiftedBit u =
          (if s.cfg.lsbFirst then bytes[l].getLsbD u.spi.bitcnt else bytes[l].getLsbD (7 - u.spi.bitcnt)) := by
        rw [shiftedBit, hcfg, hsr]
      have hsent := seenAs_shiftPins h (shiftedBit u)
      rw [List.append_assoc, hbitout, ← byteBits_take_succ s.cfg _ _ hlt, ← hbitout, shiftPins_spec] at hsent
      rw [shiftPins_spec]
      exact .sending hl hk hsr hlt rfl hsent

/-- Moves that leave the sequencer and the link, and show the receiver nothing, leave the frame where it stands. -/
theorem Framed.congr {t : State} (h : Framed s a bytes u) (hm : LinkUnmoved u t) : Framed s a bytes t := by
  cases h with
  | before hk h => exact .before (hm.seq ▸ hk) (hm.linkQuiet h)
  | between hl hk hb h => exact .between hl (hm.seq ▸ hk) (hm.spi ▸ hb) (hm.seen _ _ _ _ h)
  | sending hl hk hsr hbit hb h =>
    exact .sending hl (hm.seq ▸ hk) (hm.spi ▸ hsr) (hm.spi ▸ hbit) (hm.spi ▸ hb) (hm.spi ▸ hm.seen _ _ _ _ h)
  | after hk h => exact .after (hm.seq ▸ hk) (hm.linkQuiet h)

end Framed

/-! ### One write over the link -/

/-- The write of `bytes` that began in `s` is in progress. -/
structure Writing (s : State) (i : Instr) (bytes : List Byte) (u : State) : Prop where
  cfg : u.cfg = s.cfg
  busy : u.seq.busy = true
  fetched : u.fetched = .ok i
  responses : u.out.responses = s.out.responses
  framed : Framed s 0 bytes u

/-- The write of `bytes` that began in `s` has ended. -/
structure Written (s : State) (bytes : List Byte) (u : State) : Prop where
  cfg : u.cfg = s.cfg
  idle : u.seq.busy = false
  responses : u.out.responses = [0x00] :: s.out.responses
  done : FrameDone s bytes u

section Write

variable {s u t : State} {i : Instr} {bytes : List Byte}

/-- SEQ's move takes a step of the frame, or answers behind it. -/
theorem Writing.seq (h : Writing s i bytes u)
    (hi : ∀ u, primStepsOf i u = spiFrame (bytes.map fun b _ => b) ++ [respondOk]) (ht : takeMove .seq u = .next t) :
    Writing s i bytes t ∨ Written s bytes t := by
  obtain ⟨hcfg, hb, hf, hr, hframed⟩ := h
  replace ht : exec i u = .next t := (seqStep_of_fetched hb hf).symm.trans ht
  by_cases hend : u.seq.step < 0 + (2 * bytes.length + 2)
  · obtain ⟨j, f, t', hj, hfj, hft, hkept, hnext⟩ :=
      hframed.seq (fs := bytes.map fun b _ => b) (by simp [Function.comp_def]) hend
    have hstep : (primStepsOf i u)[0 + j]? = some f := by
      rw [hi, Nat.zero_add, List.getElem?_append_left (List.getElem?_eq_some_iff.mp hfj).1, hfj]
    obtain rfl := Host.Outcome.next.inj (((exec_of_getElem? hj hstep).trans hft).symm.trans ht)
    left
    rw [hkept] at hnext ⊢
    exact ⟨hcfg, hb, hf, hr, hnext⟩
  · cases hframed with
    | after hk hdone =>
      have hstep : (primStepsOf i u)[0 + (2 * bytes.length + 2)]? = some respondOk := by
        rw [hi, Nat.zero_add, List.getElem?_append_right (by simp [length_spiFrame]), length_spiFrame, List.length_map,
          Nat.sub_self]
        rfl
      obtain rfl := Host.Outcome.next.inj ((exec_respondOk hk hstep).symm.trans ht)
      exact .inr ⟨hcfg, rfl, congrArg ([0x00] :: ·) hr, hdone⟩
    | before hk => omega
    | between hl hk => omega
    | sending hl hk => omega

/-- SPIENG's move sends a bit. -/
theorem Writing.eng (h : Writing s i bytes u) : Writing s i bytes (engBitStep u) := by
  obtain ⟨hcfg, hb, hf, hr, hframed⟩ := h
  have hcfg' : (engBitStep u).cfg = u.cfg := by rw [engBitStep_kept]
  have hseq' : (engBitStep u).seq = u.seq := by rw [engBitStep_kept]
  exact ⟨hcfg'.trans hcfg, hseq' ▸ hb, by rw [← hf, State.fetched, State.fetched, hcfg', hseq'],
    (engBitStep_responses u).trans hr, hframed.eng hcfg⟩

theorem Writing.congr (h : Writing s i bytes u) (hm : LinkUnmoved u t) : Writing s i bytes t :=
  ⟨hm.cfg.trans h.cfg, hm.seq ▸ h.busy, by rw [← h.fetched, State.fetched, State.fetched, hm.cfg, hm.seq],
    hm.responses.trans h.responses, h.framed.congr hm⟩

theorem Written.congr (h : Written s bytes u) (hm : LinkUnmoved u t) : Written s bytes t :=
  ⟨hm.cfg.trans h.cfg, hm.seq ▸ h.idle, hm.responses.trans h.responses, hm.linkQuiet h.done⟩

/-- Every move short of RESET and of a further command goes on with the write, ends it, or leaves it ended. -/
theorem takeMove_write {m : Move} (hi : ∀ u, primStepsOf i u = spiFrame (bytes.map fun b _ => b) ++ [respondOk])
    (hreset : m ≠ .reset) (hcommand : ∀ c, m ≠ .command c) (h : Writing s i bytes u ∨ Written s bytes u)
    (ht : takeMove m u = .next t) : Writing s i bytes t ∨ Written s bytes t := by
  by_cases hseq : m = .seq
  · subst hseq
    rcases h with h | h
    · exact h.seq hi ht
    · obtain rfl := Host.Outcome.next.inj ((seqStep_of_idle h.idle).symm.trans ht)
      exact .inr h
  · by_cases heng : m = .eng
    · subst heng
      obtain rfl := Host.Outcome.next.inj ht
      rcases h with h | h
      · exact .inl h.eng
      · exact .inr (by rwa [engBitStep_of_quiet h.done.1])
    · have hm := takeMove_linkUnmoved ht hseq heng hreset hcommand
      exact h.imp (·.congr hm) (·.congr hm)

/-- 43_spi_link.md R163: an idle block that has accepted a write is before its frame. -/
theorem writing_accepted {op : List Byte} (hs : s.Inv) (hr : s.receiverAgrees = true) (hidle : s.seq.busy = false)
    (hop : decodeCommand op = .ok i) : Writing s i bytes (accepted op s) := by
  obtain ⟨-, -, hstep⟩ := inv_iff.mp hs
  have hlink := (inStep_idle hidle).mp hstep
  obtain ⟨hsel, hsck, -⟩ := receiverAgrees_iff.mp hr
  have hinactive : (received s.cfg s.out.pinTrace).selected = false := by
    simp [hsel, hlink.cs, csActive, csInactive]
  exact ⟨rfl, rfl, hop, rfl,
    .before rfl ⟨hlink.quiet, hinactive, hsck.trans hlink.sck, fun h => absurd h Bool.false_ne_true, rfl, rfl⟩⟩

end Write

/-- A predicate that every move of the list keeps holds after the run over the list. -/
theorem runMoves_keeps {P : State → Prop} {ms : List Move} {u t : State}
    (hkeep : ∀ m ∈ ms, ∀ u t, P u → takeMove m u = .next t → P t) (hu : P u) (h : runMoves ms u = .next t) :
    ∃ v, P v ∧ t = v.withInputs [] := by
  induction ms generalizing u with
  | nil => exact ⟨u, hu, (Host.Outcome.next.inj h).symm⟩
  | cons m ms ih =>
    rw [runMoves_cons] at h
    cases hm : takeMove m u with
    | next v =>
      rw [hm] at h
      exact ih (fun m' hm' => hkeep m' (List.mem_cons_of_mem m hm'))
        (hkeep m List.mem_cons_self u v hu hm) h
    | fault e =>
      rw [hm] at h
      cases h
    | refused e =>
      rw [hm] at h
      cases h

/-- The two commands of the link, with the bytes of their frames. -/
theorem decodeCommand_spiWrite {p : Params} {op : List Byte} {bits : List Bool}
    (h : (∃ b : Byte, op = [0x30, b] ∧ bits = byteBits p b) ∨
      (∃ w : Word, op = [0x31, w.extractLsb' 8 8, w.extractLsb' 0 8] ∧ bits = wordBits p w)) :
    ∃ i bytes, decodeCommand op = .ok i ∧ bits = bytesBits p bytes ∧
      ∀ u, primStepsOf i u = spiFrame (bytes.map fun b _ => b) ++ [respondOk] := by
  rcases h with ⟨b, rfl, rfl⟩ | ⟨w, rfl, rfl⟩
  · exact ⟨.spiWrite8 b, [b], rfl, (List.flatMap_singleton _ _).symm, fun _ => rfl⟩
  · refine ⟨.spiWrite16 w, [hiByte w, loByte w], ?_, by simp [bytesBits, wordBits], fun _ => rfl⟩
    exact congrArg (fun v => Except.ok (Instr.spiWrite16 v)) (joinBytes_bytes w)

/-- Settles O35: the write is in progress or ended after every move, and what has ended is one frame of its bytes. -/
theorem receiverSeesOneFrame : Obligations.ReceiverSeesOneFrame := by
  intro s t op bits ms hs hr hidle hreset hcommand hop hrun hend
  obtain ⟨i, bytes, hdecode, rfl, hi⟩ := decodeCommand_spiWrite hop
  rw [runMoves_command hidle] at hrun
  obtain ⟨u, hu, rfl⟩ := runMoves_keeps (P := fun u => Writing s i bytes u ∨ Written s bytes u)
    (fun m hm _ _ => takeMove_write hi (fun h => hreset (h ▸ hm)) (hcommand m hm))
    (.inl (writing_accepted hs hr hidle hdecode)) hrun
  rcases hu with hu | hu
  · exact absurd (hend.symm.trans hu.busy) Bool.false_ne_true
  · obtain ⟨-, -, -, -, hframes, hcount⟩ := hu.done
    exact ⟨hframes, hcount, hu.responses⟩

end Sys2Proof.Machine

/-! ## The Digital Potentiometer Driver

44_digipot.md: the decimal text, the operations step by step, and the whole of a mutating operation for every
interleaving. -/

namespace Sys2Proof.Machine

/-! ### The decimal text -/

/-- 44_digipot.md R189: a text of `n` digits has a value below `10 ^ n`. -/
theorem parseDecimal_lt_pow {text : List Byte} (h : ∀ b ∈ text, 0x30 ≤ b.toNat ∧ b.toNat ≤ 0x39) :
    parseDecimal text < 10 ^ text.length := by
  induction text with
  | nil => exact Nat.one_pos
  | cons b rest ih =>
    obtain ⟨⟨-, hb⟩, hrest⟩ := List.forall_mem_cons.mp h
    have hdigit : (b.toNat - 0x30) * 10 ^ rest.length ≤ 9 * 10 ^ rest.length := Nat.mul_le_mul_right _ (by omega)
    have := ih hrest
    rw [parseDecimal, List.length_cons, Nat.pow_succ]
    omega

/-- 44_digipot.md R189: the sum over the digits, by the first and the others. -/
theorem parseDecimal_eq_sum (text : List Byte) :
    parseDecimal text = ∑ i ∈ Finset.range text.length,
      ((text.getD i 0).toNat - 0x30) * 10 ^ (text.length - 1 - i) := by
  induction text with
  | nil => rfl
  | cons b rest ih =>
    rw [List.length_cons, Finset.sum_range_succ', Nat.add_comm, parseDecimal, ih]
    refine congrArg₂ (· + ·) rfl (Finset.sum_congr rfl fun i _ => ?_)
    have hexp : rest.length + 1 - 1 - (i + 1) = rest.length - 1 - i := by omega
    rw [hexp, List.getD_cons_succ]

/-- Settles O7, by induction on the text. -/
theorem parseDecimalIsDecimalValue : Obligations.ParseDecimalIsDecimalValue := by
  refine fun text => ⟨parseDecimal_eq_sum text, fun hlen hdigits => Nat.le_of_lt_succ ?_⟩
  calc parseDecimal text
    _ < 10 ^ text.length := parseDecimal_lt_pow hdigits
    _ ≤ 10 ^ 3 := Nat.pow_le_pow_right (by decide) hlen

/-! ### The checks of `DP_SET_TEXT` -/

theorem badTextLength_iff {text : List Byte} :
    badTextLength text = true ↔ text.length = 0 ∨ 3 < text.length := decide_eq_true_iff

theorem badTextLength_eq_false_iff {text : List Byte} :
    badTextLength text = false ↔ 1 ≤ text.length ∧ text.length ≤ 3 := by
  rw [badTextLength, decide_eq_false_iff_not]
  omega

theorem badTextDigit_iff {text : List Byte} :
    badTextDigit text = true ↔ ∃ b ∈ text, b.toNat < 0x30 ∨ 0x39 < b.toNat := by
  simp only [badTextDigit, List.any_eq_true, Bool.not_eq_true', isDigit, decide_eq_false_iff_not, not_and_or,
    Nat.not_le]

theorem badTextDigit_eq_false_iff {text : List Byte} :
    badTextDigit text = false ↔ ∀ b ∈ text, 0x30 ≤ b.toNat ∧ b.toNat ≤ 0x39 := by
  simp only [badTextDigit, List.any_eq_false, Bool.not_eq_true', Bool.not_eq_false, isDigit, decide_eq_true_eq]

theorem badTextValue_iff {p : Params} {text : List Byte} :
    badTextValue p text = true ↔ p.steps - 1 < parseDecimal text := decide_eq_true_iff

theorem badTextValue_eq_false_iff {p : Params} {text : List Byte} :
    badTextValue p text = false ↔ parseDecimal text ≤ p.steps - 1 :=
  decide_eq_false_iff_not.trans Nat.not_lt

/-- 44_digipot.md R188: a check ends the operation with `FAIL`, or passes on. -/
theorem exec_failIf {i : Instr} {s : State} {k : Nat} {bad : State → Bool} (hk : s.seq.step = k)
    (hg : (primStepsOf i s)[k]? = some (failIf bad)) :
    (bad s = true → exec i s = .next (ended 0x01 [] s)) ∧
    (bad s = false → exec i s = .next { s with seq.step := k + 1 }) := by
  rw [exec_of_getElem? hk hg, ← advance_of_step hk]
  rcases failIf_cases bad s with ⟨hbad, h⟩ | ⟨hgood, h⟩
  · exact ⟨fun _ => h, by simp [hbad]⟩
  · exact ⟨by simp [hgood], fun _ => h⟩

/-! ### The steps of a mutating operation -/

/-- 44_digipot.md R190: the bytes that `DpWrite` sends, read off `SEQ_TMP`. -/
def tmpBytes : List (State → Byte) := [fun s => hiByte (tmpWord s), fun s => loByte (tmpWord s)]

theorem tmpWord_eq_append (s : State) :
    tmpWord s = s.cfg.wiperAddr ++ s.cfg.cmdWrite ++ s.seq.tmp.extractLsb' 0 10 := dpEncode_eq_append _ _ _

section DriverSteps

variable {i : Instr} {s : State} {pre : List PrimStep} {target : State → Nat} {value : State → List Byte}
  (hi : primStepsOf i s = pre ++ (dpWrite target ++ [respond value]))

include hi

/-- The steps behind the first `pre.length`. -/
theorem exec_driver {j : Nat} {f : PrimStep} (hk : s.seq.step = pre.length + j)
    (hf : (dpWrite target ++ [respond value])[j]? = some f) : exec i s = f s := by
  refine exec_of_getElem? hk ?_
  rw [hi, List.getElem?_append_right (Nat.le_add_right _ _), Nat.add_sub_cancel_left]
  exact hf

/-- 44_digipot.md R190: the value goes to `SEQ_TMP`. -/
theorem exec_driver_keep (hk : s.seq.step = pre.length) :
    exec i s = .next { s with seq.tmp := BitVec.ofNat 16 (target s), seq.step := pre.length + 1 } := by
  rw [exec_driver (j := 0) hi hk rfl, write_apply, State.setTmp, State.advance, hk]

/-- 44_digipot.md R190: the frame of the word of `SEQ_TMP`. -/
theorem exec_driver_frame {j : Nat} {f : PrimStep} (hk : s.seq.step = pre.length + 1 + j)
    (hf : (spiFrame tmpBytes)[j]? = some f) : exec i s = f s := by
  refine exec_driver (j := j + 1) hi (by omega) ?_
  have hlt : j < (spiFrame tmpBytes).length := (List.getElem?_eq_some_iff.mp hf).1
  change (spiFrame tmpBytes ++ [write State.storeShadow] ++ [respond value])[j]? = _
  rw [List.append_assoc, List.getElem?_append_left hlt, hf]

theorem exec_driver_wordFrame {w : Word} (hw : w = s.cfg.wiperAddr ++ s.cfg.cmdWrite ++ s.seq.tmp.extractLsb' 0 10)
    (hlo : pre.length + 1 ≤ s.seq.step) (hhi : s.seq.step < pre.length + 7) :
    exec i s =
      .next (wordFrameStep (w.extractLsb' 8 8) (w.extractLsb' 0 8) (s.seq.step - (pre.length + 1)) s) := by
  obtain ⟨f, hf, hfs⟩ := spiFrame_two_step (fun s => hiByte (tmpWord s)) (fun s => loByte (tmpWord s)) s
    (j := s.seq.step - (pre.length + 1)) (by omega)
  rw [exec_driver_frame hi (by omega) hf, hfs, tmpWord_eq_append, ← hw]
  rfl

/-- 44_digipot.md R190: the value goes to the shadow. -/
theorem exec_driver_store (hk : s.seq.step = pre.length + 7) :
    exec i s = .next { s.storeShadow with seq.step := pre.length + 8 } := by
  rw [exec_driver (j := 7) hi hk rfl, write_apply, advance_of_step (by simpa using hk)]

/-- 44_digipot.md R194: a value that fits the shadow is stored whole. -/
theorem exec_driver_store_of_fits (hk : s.seq.step = pre.length + 7) (hv : s.seq.tmp.toNat < 2 ^ s.cfg.shadowBits) :
    exec i s = .next { s with dp := s.seq.tmp, seq.step := pre.length + 8 } := by
  rw [exec_driver_store hi hk, State.storeShadow, if_pos hv]

theorem exec_driver_respond (hk : s.seq.step = pre.length + 8) :
    exec i s = .next (ended 0x00 (value s) s) :=
  exec_driver (j := 8) hi hk rfl

end DriverSteps

/-- Settles O37: a step that writes nothing, the write of the clamped value, and the new shadow as the answer. -/
theorem driverIncrementDecrement : Obligations.DriverIncrementDecrement := by
  refine ⟨rfl, rfl, fun s i v w hiv hw => ?_⟩
  obtain ⟨target, hi, hv⟩ : ∃ target, primStepsOf i s =
      [write id] ++ (dpWrite target ++ [respond fun s => wordValue s.dp]) ∧ target s = v := by
    rcases hiv with ⟨rfl, hv⟩ | ⟨rfl, hv⟩
    · exact ⟨_, rfl, hv.symm⟩
    · refine ⟨_, rfl, ?_⟩
      rw [decremented]
      omega
  subst hv
  exact ⟨fun hk => exec_write (f := id) hk rfl (by rw [hi]; rfl), exec_driver_keep hi, exec_driver_wordFrame hi hw,
    exec_driver_store_of_fits hi, exec_driver_respond hi⟩

/-- Settles O38: the three checks, then the write. -/
theorem driverSetText : Obligations.DriverSetText := by
  refine ⟨fun text hlen => formatOpt_text _ hlen, fun s text w hw => ?_⟩
  have hi : primStepsOf (.dpSetText text) s = [failIf fun _ => badTextLength text, failIf fun _ => badTextDigit text,
      failIf fun s => badTextValue s.cfg text] ++ (dpWrite (fun _ => parseDecimal text) ++ [respondOk]) := rfl
  have hlength (hk : s.seq.step = 0) := exec_failIf (i := .dpSetText text) hk rfl
  have hdigit (hk : s.seq.step = 1) := exec_failIf (i := .dpSetText text) hk rfl
  have hvalue (hk : s.seq.step = 2) := exec_failIf (i := .dpSetText text) hk rfl
  simp only [badTextLength_iff, badTextLength_eq_false_iff] at hlength
  simp only [badTextDigit_iff, badTextDigit_eq_false_iff] at hdigit
  simp only [badTextValue_iff, badTextValue_eq_false_iff] at hvalue
  exact ⟨fun hk => (hlength hk).1, fun hk h1 h3 => (hlength hk).2 ⟨h1, h3⟩, fun hk => (hdigit hk).1,
    fun hk => (hdigit hk).2, fun hk => (hvalue hk).1, fun hk => (hvalue hk).2, exec_driver_keep hi,
    exec_driver_wordFrame hi hw, exec_driver_store_of_fits hi, exec_driver_respond hi⟩

/-- Settles O39: the write without a check. -/
theorem driverSetNum : Obligations.DriverSetNum := by
  refine ⟨fun _ _ => rfl, fun s v w hw => ?_⟩
  have hi : primStepsOf (.dpSetNum v) s = [] ++ (dpWrite (fun _ => v.toNat) ++ [respondOk]) := rfl
  refine ⟨fun hk => ?_, exec_driver_wordFrame hi hw, exec_driver_store_of_fits hi, fun hk hv => ?_,
    exec_driver_respond hi⟩
  · rw [exec_driver_keep hi hk, BitVec.ofNat_toNat, BitVec.setWidth_eq]
    rfl
  · rcases storeShadow_cases s with ⟨hfits, -⟩ | ⟨-, x, hx, h⟩
    · exact absurd hfits (Nat.not_lt.mpr hv)
    · exact ⟨x, hx, by rw [exec_driver_store hi hk, h]; rfl⟩

/-- Settles O40: each of the two is its response. -/
theorem queriesChangeNothing : Obligations.QueriesChangeNothing :=
  ⟨rfl, rfl, fun _ hk => ⟨exec_of_getElem? (g := respond fun s => wordValue s.dp) hk rfl,
    exec_of_getElem? (g := respond fun s => [evtByte s.evt]) hk rfl⟩⟩

end Sys2Proof.Machine

/-! ## The end of an operation

43_spi_link.md R168: while `spi_ready` holds, the moves of SEQ and SPIENG alone end the operation in progress. -/

namespace Sys2Proof.Machine

/-- The move with which the block itself goes on: SPIENG's while a byte is in flight, SEQ's otherwise. -/
def ownMove (s : State) : Move := if s.spi.busy then .eng else .seq

/-- A bound on the moves of its own that the block needs to end the operation `i`: 9 for each step still to come, which
may start a byte, and the bits of the byte in flight. -/
def movesLeft (i : Instr) (s : State) : Nat :=
  9 * (stepCount s.cfg i - s.seq.step) + if s.spi.busy then 8 - s.spi.bitcnt else 0

/-- `t` is one move nearer to the end of the operation `i` than `s`. -/
def NearerEnd (i : Instr) (s t : State) : Prop :=
  t.seq.busy = true ∧ t.fetched = .ok i ∧ movesLeft i t < movesLeft i s

section OwnMove

variable {i : Instr} {s : State} (hs : s.Inv) (hq : s.seq.busy = true) (hf : s.fetched = .ok i)

include hs hq hf

/-- 43_spi_link.md R164: a bit step leaves one bit less. -/
theorem engBitStep_nearerEnd (hb : s.spi.busy = true) (hr : s.env.spiReady = true) :
    NearerEnd i s (engBitStep s) := by
  obtain ⟨-, -, hstep⟩ := inv_iff.mp hs
  obtain ⟨-, hlink⟩ := (inStep_running hq hf).mp hstep
  obtain ⟨-, hlt⟩ := hlink.busy hb
  rw [engBitStep_of_enabled hb hr, shiftPins_spec]
  refine ⟨hq, hf, Nat.add_lt_add_left ?_ (9 * (stepCount s.cfg i - s.seq.step))⟩
  simp only [hb, if_true, decide_eq_true_eq]
  split <;> omega

/-- 10_state.md R28: a primitive step that is no wait for a byte ends the operation or leaves one step less. -/
theorem exec_nearerEnd (hb : s.spi.busy = false) :
    ∃ t, exec i s = .next t ∧ t.env = s.env ∧ (t.seq.busy = false ∨ NearerEnd i s t) := by
  obtain ⟨-, -, hstep⟩ := inv_iff.mp hs
  obtain ⟨⟨hlt, -⟩, -⟩ := (inStep_running hq hf).mp hstep
  obtain ⟨t, ht⟩ := (everyInstructionAnswers i s).1 hlt
  have hp := performs_of_exec ht
  obtain ⟨hcfg, henv, -⟩ := hp.kept
  have hnext : t.seq.step = s.seq.step + 1 := (primitiveStepAdvances i s t ht).2.1 (by simp [hb])
  refine ⟨t, ht, henv, (Bool.eq_false_or_eq_true t.seq.busy).symm.imp id fun hqt => ⟨hqt, hp.fetched.trans hf, ?_⟩⟩
  have hbits : (if t.spi.busy = true then 8 - t.spi.bitcnt else 0) ≤ 8 := by split <;> omega
  rw [movesLeft, movesLeft, hnext, hcfg, hb, if_neg Bool.false_ne_true]
  omega

/-- The block's own move ends the operation or brings it nearer to its end. -/
theorem takeMove_ownMove (hr : s.env.spiReady = true) :
    ∃ t, takeMove (ownMove s) s = .next t ∧ t.Inv ∧ t.env.spiReady = true ∧
      (t.seq.busy = false ∨ NearerEnd i s t) := by
  cases hb : s.spi.busy with
  | true =>
    have hmove : takeMove (ownMove s) s = .next (engBitStep s) := by rw [ownMove, if_pos hb]; rfl
    refine ⟨_, hmove, engBitStep_inv hs, ?_, .inr (engBitStep_nearerEnd hs hq hf hb hr)⟩
    rw [engBitStep_kept]
    exact hr
  | false =>
    obtain ⟨t, ht, henv, hend⟩ := exec_nearerEnd hs hq hf hb
    have hmove : takeMove (ownMove s) s = .next t := by
      rw [ownMove, hb, if_neg Bool.false_ne_true]
      exact (seqStep_of_fetched hq hf).trans ht
    exact ⟨t, hmove, takeMove_inv hmove hs, henv ▸ hr, hend⟩

end OwnMove

theorem ownMove_eq (s : State) : ownMove s = .seq ∨ ownMove s = .eng := by
  unfold ownMove
  split
  · exact .inr rfl
  · exact .inl rfl

/-- 43_spi_link.md R168: some moves of SEQ and SPIENG end the operation, by induction on the moves left. -/
theorem exists_moves_to_end {i : Instr} {s : State} (hs : s.Inv) (hq : s.seq.busy = true) (hf : s.fetched = .ok i)
    (hr : s.env.spiReady = true) :
    ∃ ms t, (∀ m ∈ ms, m = .seq ∨ m = .eng) ∧ runMoves ms s = .next t ∧ t.seq.busy = false := by
  induction hn : movesLeft i s using Nat.strong_induction_on generalizing s with
  | h n ih =>
    obtain ⟨t, ht, hinv, hready, hidle | ⟨hqt, hft, hlt⟩⟩ := takeMove_ownMove hs hq hf hr
    · exact ⟨[ownMove s], t.withInputs [], List.forall_mem_singleton.mpr (ownMove_eq s),
        by rw [runMoves_cons, ht]; rfl, hidle⟩
    · obtain ⟨ms, u, hms, hrun, hidle⟩ := ih _ (hn ▸ hlt) hinv hqt hft hready rfl
      exact ⟨ownMove s :: ms, u, List.forall_mem_cons.mpr ⟨ownMove_eq s, hms⟩,
        by rw [runMoves_cons, ht, andThen, hrun], hidle⟩

end Sys2Proof.Machine

/-! ## What SEQ and SPIENG leave alone

44_digipot.md R186 to R190, 43_spi_link.md R171: for the counting units, the prescaler, the events, the display tick timer
and the environment, a run in which SEQ writes no register of theirs is the run without the moves of SEQ and SPIENG. -/

namespace Sys2Proof.Machine

/-- `t` differs from `s` in the sequencer, the link, the shadow and the observations at most. -/
structure SameSurroundings (s t : State) : Prop where
  cfg : t.cfg = s.cfg
  pc : t.pc = s.pc
  wt : t.wt = s.wt
  sync : t.sync = s.sync
  evt : t.evt = s.evt
  dt : t.dt = s.dt
  env : t.env = s.env

theorem SameSurroundings.trans {s t u : State} (h : SameSurroundings s t) (h' : SameSurroundings t u) :
    SameSurroundings s u :=
  ⟨h'.cfg.trans h.cfg, h'.pc.trans h.pc, h'.wt.trans h.wt, h'.sync.trans h.sync, h'.evt.trans h.evt,
    h'.dt.trans h.dt, h'.env.trans h.env⟩

section Surroundings

variable {s t : State} (h : SameSurroundings s t)

include h

theorem SameSurroundings.eq :
    t = { s with dp := t.dp, spi := t.spi, seq := t.seq, out := t.out, freeIdx := t.freeIdx } := by
  rcases t with ⟨⟩
  simp only [State.mk.injEq, true_and, and_true]
  exact ⟨h.cfg, h.pc, h.wt, h.sync, h.evt, h.dt, h.env⟩

theorem SameSurroundings.fireEvent (i : Nat) : SameSurroundings (s.fireEvent i) (t.fireEvent i) := by
  constructor <;> simp [h.cfg, h.pc, h.wt, h.sync, h.evt, h.dt, h.env]

theorem SameSurroundings.edgeStep : SameSurroundings (edgeStep s) (edgeStep t) := by
  rw [h.eq]
  unfold Machine.edgeStep
  dsimp only
  split_ifs
  · refine SameSurroundings.fireEvent ?_ _
    exact ⟨rfl, rfl, rfl, rfl, rfl, rfl, rfl⟩
  · exact ⟨rfl, rfl, rfl, rfl, rfl, rfl, rfl⟩
  · exact ⟨rfl, rfl, rfl, rfl, rfl, rfl, rfl⟩

theorem SameSurroundings.wtTick : SameSurroundings (wtTick s) (wtTick t) := by
  have hcount : tickedCount t = tickedCount s := by simp only [tickedCount, h.wt, h.cfg]
  unfold Machine.wtTick
  rw [hcount, h.eq]
  dsimp only
  split_ifs
  · refine SameSurroundings.fireEvent ?_ _
    exact ⟨rfl, rfl, rfl, rfl, rfl, rfl, rfl⟩
  · exact ⟨rfl, rfl, rfl, rfl, rfl, rfl, rfl⟩

theorem SameSurroundings.clkStep : SameSurroundings (clkStep s) (clkStep t) := by
  have htap (c : Nat) : tapTicks t c = tapTicks s c := by simp only [tapTicks, h.wt, h.cfg]
  unfold Machine.clkStep
  simp only [htap]
  rw [h.eq]
  dsimp only
  split_ifs
  · exact ⟨rfl, rfl, rfl, rfl, rfl, rfl, rfl⟩
  · exact SameSurroundings.wtTick ⟨rfl, rfl, rfl, rfl, rfl, rfl, rfl⟩
  · exact ⟨rfl, rfl, rfl, rfl, rfl, rfl, rfl⟩

theorem SameSurroundings.dtStep : SameSurroundings (dtStep s) (dtStep t) := by
  rw [h.eq]
  unfold Machine.dtStep
  dsimp only
  split_ifs
  · refine SameSurroundings.fireEvent ?_ _
    exact ⟨rfl, rfl, rfl, rfl, rfl, rfl, rfl⟩
  · exact ⟨rfl, rfl, rfl, rfl, rfl, rfl, rfl⟩

/-- 00_scope.md R5: a move of another agent does the same to equal surroundings. -/
theorem SameSurroundings.takeMove {m : Move} {t' : State} (ht : takeMove m t = .next t') (hseq : m ≠ .seq)
    (heng : m ≠ .eng) (hreset : m ≠ .reset) (hcommand : ∀ c, m ≠ .command c) :
    ∃ s', Machine.takeMove m s = .next s' ∧ SameSurroundings s' t' := by
  cases m with
  | seq => exact absurd rfl hseq
  | clk => exact ⟨_, rfl, Host.Outcome.next.inj ht ▸ h.clkStep⟩
  | edge => exact ⟨_, rfl, Host.Outcome.next.inj ht ▸ h.edgeStep⟩
  | eng => exact absurd rfl heng
  | dt => exact ⟨_, rfl, Host.Outcome.next.inj ht ▸ h.dtStep⟩
  | command bytes => exact absurd rfl (hcommand bytes)
  | spiReady ready => exact ⟨_, rfl, Host.Outcome.next.inj ht ▸ { h with env := by simp [h.env] }⟩
  | readOrder loFirst => exact ⟨_, rfl, Host.Outcome.next.inj ht ▸ { h with env := by simp [h.env] }⟩
  | reset => exact absurd rfl hreset

end Surroundings

/-- 43_spi_link.md R171: a bit step leaves the surroundings. -/
theorem engBitStep_sameSurroundings (s : State) : SameSurroundings s (engBitStep s) := by
  rw [engBitStep_kept]
  exact ⟨rfl, rfl, rfl, rfl, rfl, rfl, rfl⟩

/-- 44_digipot.md R186 to R190: the only register that a mutating driver operation writes is the shadow. -/
theorem RegisterWrite.sameSurroundings_of_driver {i : Instr} {s u : State} (h : RegisterWrite i s u)
    (hi : i = .dpInc ∨ i = .dpDec ∨ (∃ v, i = .dpSetNum v) ∨ ∃ text, i = .dpSetText text) : SameSurroundings s u := by
  rcases hi with rfl | rfl | ⟨v, rfl⟩ | ⟨text, rfl⟩ <;> cases h with
  | nothing => exact ⟨rfl, rfl, rfl, rfl, rfl, rfl, rfl⟩
  | shadow => constructor <;> simp

/-- The moves that are neither SEQ's nor SPIENG's. -/
def otherMoves (ms : List Move) : List Move := ms.filter fun m => decide (m ≠ .seq ∧ m ≠ .eng)

/-- 00_scope.md R5: if the moves of SEQ leave the surroundings while `P` holds, and `P` holds on, then for them the run is
the run without the moves of SEQ and SPIENG. -/
theorem runMoves_sameSurroundings {P : State → Prop} {ms : List Move} {s u t : State}
    (hkeep : ∀ m ∈ ms, ∀ u t, P u → takeMove m u = .next t → P t)
    (hsame : ∀ u t, P u → takeMove .seq u = .next t → SameSurroundings u t)
    (hreset : .reset ∉ ms) (hcommand : ∀ m ∈ ms, ∀ c, m ≠ .command c)
    (hsu : SameSurroundings s u) (hu : P u) (h : runMoves ms u = .next t) :
    ∃ r, runMoves (otherMoves ms) s = .next r ∧ SameSurroundings r t := by
  induction ms generalizing s u with
  | nil =>
    obtain rfl := Host.Outcome.next.inj h
    exact ⟨_, runMoves_nil s, { hsu with env := by simp [State.withInputs, hsu.env] }⟩
  | cons m ms ih =>
    obtain ⟨hm, hms⟩ := not_or.mp (mt List.mem_cons.mpr hreset)
    obtain ⟨hmc, hmsc⟩ := List.forall_mem_cons.mp hcommand
    obtain ⟨hmk, hmsk⟩ := List.forall_mem_cons.mp hkeep
    rw [runMoves_cons] at h
    cases hv : takeMove m u with
    | fault e => rw [hv] at h; cases h
    | refused e => rw [hv] at h; cases h
    | next v =>
      rw [hv] at h
      have hrest {s' : State} (hs' : SameSurroundings s' v) := ih hmsk hms hmsc hs' (hmk u v hu hv) h
      by_cases hown : m = .seq ∨ m = .eng
      · have hskip : otherMoves (m :: ms) = otherMoves ms :=
          List.filter_cons_of_neg (by simpa [or_iff_not_imp_left] using hown)
        rw [hskip]
        refine hrest (hsu.trans ?_)
        rcases hown with rfl | rfl
        · exact hsame u v hu hv
        · exact Host.Outcome.next.inj hv ▸ engBitStep_sameSurroundings u
      · obtain ⟨hseq, heng⟩ := not_or.mp hown
        have htake : otherMoves (m :: ms) = m :: otherMoves ms := List.filter_cons_of_pos (by simp [hseq, heng])
        obtain ⟨s', hs', hsame'⟩ := hsu.takeMove hv hseq heng (Ne.symm hm) hmc
        rw [htake, runMoves_cons, hs']
        exact hrest hsame'

end Sys2Proof.Machine

/-! ## A mutating driver operation

44_digipot.md R186 to R194: for every interleaving the value goes to `SEQ_TMP`, over the link in one frame, to the
shadow, and then the operation answers. -/

namespace Sys2Proof.Machine

/-- 44_digipot.md R190, R194: after `s` the value `v` has been stored, or a free value where it does not fit (log 5). -/
structure Stored (s : State) (v : Word) (u : State) : Prop where
  fits : v.toNat < 2 ^ s.cfg.shadowBits → u.dp = v ∧ u.freeIdx = s.freeIdx
  free : 2 ^ s.cfg.shadowBits ≤ v.toNat → u.dp.toNat < 2 ^ s.cfg.shadowBits ∧ u.freeIdx = s.freeIdx + 1

/-- 44_digipot.md R190: the store changes nothing but the shadow, and the counter of free values (log 5). -/
theorem storeShadow_kept (s : State) :
    s.storeShadow = { s with dp := s.storeShadow.dp, freeIdx := s.storeShadow.freeIdx } := by
  rcases storeShadow_cases s with ⟨-, h⟩ | ⟨-, x, -, h⟩ <;> rw [h]

/-- 44_digipot.md R190: the value in `SEQ_TMP` goes to the shadow of a state that has the shadow of `s`. -/
theorem stored_storeShadow {s u : State} (hcfg : u.cfg = s.cfg) (hfree : u.freeIdx = s.freeIdx) :
    Stored s u.seq.tmp u.storeShadow := by
  rcases storeShadow_cases u with ⟨hv, h⟩ | ⟨hv, x, hx, h⟩ <;> rw [h] <;> rw [hcfg] at hv
  · exact ⟨fun _ => ⟨rfl, hfree⟩, fun hv' => absurd hv (Nat.not_lt.mpr hv')⟩
  · exact ⟨fun hv' => absurd hv' (Nat.not_lt.mpr hv), fun _ => ⟨hcfg ▸ hx, congrArg (· + 1) hfree⟩⟩

/-- The value bytes with which the operation `i` that has stored `v` answers (44_digipot.md R186, R187, R188, R190). -/
def driverAnswer (i : Instr) (v : Word) : List Byte := if i = .dpInc ∨ i = .dpDec then wordValue v else []

/-- 44_digipot.md R186 to R190: begun in `s`, the operation `i` takes the steps `pre`, which pass on, then writes `v` to
the actuator, and answers. -/
structure Drives (s : State) (i : Instr) (v : Word) (pre : List PrimStep) (target : State → Nat)
    (value : State → List Byte) : Prop where
  steps : ∀ u, primStepsOf i u = pre ++ (dpWrite target ++ [respond value])
  passes : ∀ f ∈ pre, ∀ u, u.cfg = s.cfg → f u = .next u.advance
  target : ∀ u, u.cfg = s.cfg → u.dp = s.dp → BitVec.ofNat 16 (target u) = v
  value : ∀ u, Stored s v u → value u = driverAnswer i v

/-- 44_digipot.md R190: where the write of `v`, which began after `s` and whose frame begins with the step of index `a`,
stands in `u`: before the value is in `SEQ_TMP`, with the value there and the frame somewhere, or in the shadow. -/
inductive WritePhase (s : State) (v : Word) (a : Nat) (u : State) : Prop
  | preparing (hk : u.seq.step < a) (hdp : u.dp = s.dp) (hfree : u.freeIdx = s.freeIdx) (h : FrameToCome s u)
  | framing (htmp : u.seq.tmp = v) (hdp : u.dp = s.dp) (hfree : u.freeIdx = s.freeIdx)
      (h : Framed s a (wordBytes (wiperWord s.cfg v)) u)
  | stored (hk : u.seq.step = a + 7) (hs : Stored s v u) (h : FrameDone s (wordBytes (wiperWord s.cfg v)) u)

/-- The operation `i`, which writes `v` and began in `s`, is in progress; its frame begins with the step of index `a`. -/
structure Driving (s : State) (i : Instr) (v : Word) (a : Nat) (u : State) : Prop where
  cfg : u.cfg = s.cfg
  busy : u.seq.busy = true
  fetched : u.fetched = .ok i
  responses : u.out.responses = s.out.responses
  phase : WritePhase s v a u

/-- The operation `i`, which writes `v` and began in `s`, has ended. -/
structure Driven (s : State) (i : Instr) (v : Word) (u : State) : Prop where
  cfg : u.cfg = s.cfg
  idle : u.seq.busy = false
  responses : u.out.responses = (0x00 :: driverAnswer i v) :: s.out.responses
  stored : Stored s v u
  done : FrameDone s (wordBytes (wiperWord s.cfg v)) u

/-- 10_state.md R34: only SEQ and RESET write the shadow. -/
theorem takeMove_shadow_of_other {m : Move} {u t : State} (h : takeMove m u = .next t) (hseq : m ≠ .seq)
    (hreset : m ≠ .reset) : t.dp = u.dp ∧ t.freeIdx = u.freeIdx := by
  cases m with
  | seq => exact absurd rfl hseq
  | clk => exact Host.Outcome.next.inj h ▸ ⟨(clkStep_hardwareMove u).dp, (clkStep_hardwareMove u).freeIdx⟩
  | edge => exact Host.Outcome.next.inj h ▸ ⟨(edgeStep_hardwareMove u).dp, (edgeStep_hardwareMove u).freeIdx⟩
  | dt => exact Host.Outcome.next.inj h ▸ ⟨(dtStep_hardwareMove u).dp, (dtStep_hardwareMove u).freeIdx⟩
  | eng =>
    obtain rfl := Host.Outcome.next.inj h
    rw [engBitStep_kept]
    exact ⟨rfl, rfl⟩
  | command bytes => exact Host.Outcome.next.inj h ▸ ⟨u.accept_dp bytes, u.accept_freeIdx bytes⟩
  | spiReady ready => exact Host.Outcome.next.inj h ▸ ⟨rfl, rfl⟩
  | readOrder loFirst => exact Host.Outcome.next.inj h ▸ ⟨rfl, rfl⟩
  | reset => exact absurd rfl hreset

/-- 43_spi_link.md R163: behind its last step the frame is complete. -/
theorem Framed.done {s u : State} {a : Nat} {bytes : List Byte} (h : Framed s a bytes u)
    (hend : a + (2 * bytes.length + 2) ≤ u.seq.step) :
    u.seq.step = a + (2 * bytes.length + 2) ∧ FrameDone s bytes u := by
  cases h with
  | after hk h => exact ⟨hk, h⟩
  | before hk h => omega
  | between hl hk => omega
  | sending hl hk => omega

/-- A state with the same shadow has the same value stored. -/
theorem Stored.congr {s u t : State} {v : Word} (h : Stored s v u) (hd : t.dp = u.dp ∧ t.freeIdx = u.freeIdx) :
    Stored s v t := by
  obtain ⟨hdp, hfree⟩ := hd
  constructor <;> rw [hdp, hfree]
  exacts [h.fits, h.free]

section Driver

variable {s u t : State} {i : Instr} {v : Word} {a : Nat} {pre : List PrimStep} {target : State → Nat}
  {value : State → List Byte}

/-- 44_digipot.md R190, R192: SEQ's move takes the operation to its next place, or ends it. -/
theorem Driving.seq (hd : Drives s i v pre target value) (h : Driving s i v (pre.length + 1) u)
    (ht : takeMove .seq u = .next t) : Driving s i v (pre.length + 1) t ∨ Driven s i v t := by
  obtain ⟨hcfg, hb, hf, hr, hphase⟩ := h
  replace ht : exec i u = .next t := (seqStep_of_fetched hb hf).symm.trans ht
  have hi := hd.steps u
  cases hphase with
  | preparing hk hdp hfree hcome =>
    left
    rcases Nat.lt_or_eq_of_le (Nat.le_of_lt_succ hk) with hlt | hk
    · have hstep : (primStepsOf i u)[u.seq.step]? = some pre[u.seq.step] := by
        rw [hi, List.getElem?_append_left hlt, List.getElem?_eq_getElem hlt]
      have hpass := hd.passes _ (List.getElem_mem hlt) u hcfg
      obtain rfl := Host.Outcome.next.inj (((exec_of_getElem? rfl hstep).trans hpass).symm.trans ht)
      exact ⟨hcfg, hb, hf, hr, .preparing (Nat.succ_lt_succ hlt) hdp hfree hcome⟩
    · obtain rfl := Host.Outcome.next.inj ((exec_driver_keep hi hk).symm.trans ht)
      exact ⟨hcfg, hb, hf, hr, .framing (hd.target u hcfg hdp) hdp hfree (.before rfl hcome)⟩
  | framing htmp hdp hfree hframed =>
    left
    have hbytes : tmpBytes.map (· u) = wordBytes (wiperWord s.cfg v) := by rw [← hcfg, ← htmp]; rfl
    by_cases hend : u.seq.step < pre.length + 1 + 6
    · obtain ⟨j, f, t', hj, hfj, hft, hkept, hnext⟩ := hframed.seq hbytes hend
      obtain rfl := Host.Outcome.next.inj (((exec_driver_frame hi hj hfj).trans hft).symm.trans ht)
      rw [hkept] at hnext ⊢
      exact ⟨hcfg, hb, hf, hr, .framing htmp hdp hfree hnext⟩
    · obtain ⟨hk, hdone⟩ := hframed.done (Nat.not_lt.mp hend)
      have hstored : Stored s v u.storeShadow := htmp ▸ stored_storeShadow hcfg hfree
      rw [exec_driver_store hi hk, storeShadow_kept] at ht
      obtain rfl := Host.Outcome.next.inj ht
      exact ⟨hcfg, hb, hf, hr, .stored rfl (hstored.congr ⟨rfl, rfl⟩) hdone⟩
  | stored hk hs hdone =>
    obtain rfl := Host.Outcome.next.inj ((exec_driver_respond hi hk).symm.trans ht)
    exact .inr ⟨hcfg, rfl, by rw [← hr, ← hd.value u hs]; rfl, hs.congr ⟨rfl, rfl⟩, hdone⟩

/-- SPIENG's move sends a bit. -/
theorem Driving.eng (h : Driving s i v a u) : Driving s i v a (engBitStep u) := by
  cases h.phase with
  | preparing _ _ _ hcome => rwa [engBitStep_of_quiet hcome.1]
  | stored _ _ hdone => rwa [engBitStep_of_quiet hdone.1]
  | framing htmp hdp hfree hframed =>
    have hnext := hframed.eng h.cfg
    have hr := (engBitStep_responses u).trans h.responses
    rw [engBitStep_kept] at hnext ⊢
    exact ⟨h.cfg, h.busy, h.fetched, hr, .framing htmp hdp hfree hnext⟩

theorem Driving.congr (h : Driving s i v a u) (hm : LinkUnmoved u t) (hd : t.dp = u.dp ∧ t.freeIdx = u.freeIdx) :
    Driving s i v a t := by
  obtain ⟨hcfg, hb, hf, hr, hphase⟩ := h
  refine ⟨hm.cfg.trans hcfg, hm.seq ▸ hb, by rw [← hf, State.fetched, State.fetched, hm.cfg, hm.seq],
    hm.responses.trans hr, ?_⟩
  cases hphase with
  | preparing hk hdp hfree h =>
    exact .preparing (hm.seq ▸ hk) (hd.1.trans hdp) (hd.2.trans hfree) (hm.linkQuiet h)
  | framing htmp hdp hfree h =>
    exact .framing (hm.seq ▸ htmp) (hd.1.trans hdp) (hd.2.trans hfree) (h.congr hm)
  | stored hk hs h => exact .stored (hm.seq ▸ hk) (hs.congr hd) (hm.linkQuiet h)

theorem Driven.congr (h : Driven s i v u) (hm : LinkUnmoved u t) (hd : t.dp = u.dp ∧ t.freeIdx = u.freeIdx) :
    Driven s i v t :=
  ⟨hm.cfg.trans h.cfg, hm.seq ▸ h.idle, hm.responses.trans h.responses, h.stored.congr hd, hm.linkQuiet h.done⟩

/-- Every move short of RESET and of a further command goes on with the operation, ends it, or leaves it ended. -/
theorem takeMove_driver {m : Move} (hd : Drives s i v pre target value) (hreset : m ≠ .reset)
    (hcommand : ∀ c, m ≠ .command c) (h : Driving s i v (pre.length + 1) u ∨ Driven s i v u)
    (ht : takeMove m u = .next t) : Driving s i v (pre.length + 1) t ∨ Driven s i v t := by
  by_cases hseq : m = .seq
  · subst hseq
    rcases h with h | h
    · exact h.seq hd ht
    · obtain rfl := Host.Outcome.next.inj ((seqStep_of_idle h.idle).symm.trans ht)
      exact .inr h
  · by_cases heng : m = .eng
    · subst heng
      obtain rfl := Host.Outcome.next.inj ht
      rcases h with h | h
      · exact .inl h.eng
      · exact .inr (by rwa [engBitStep_of_quiet h.done.1])
    · have hm := takeMove_linkUnmoved ht hseq heng hreset hcommand
      have hshadow := takeMove_shadow_of_other ht hseq hreset
      exact h.imp (·.congr hm hshadow) (·.congr hm hshadow)

/-- 44_digipot.md R190: while the operation is in progress or ended, SEQ's moves leave the surroundings. -/
theorem seqStep_driver_sameSurroundings
    (hi : i = .dpInc ∨ i = .dpDec ∨ (∃ v, i = .dpSetNum v) ∨ ∃ text, i = .dpSetText text)
    (h : Driving s i v a u ∨ Driven s i v u) (ht : takeMove .seq u = .next t) : SameSurroundings u t := by
  rcases h with h | h
  · have hp := performs_of_exec ((seqStep_of_fetched h.busy h.fetched).symm.trans ht)
    obtain ⟨w, hw, hunits⟩ := hp.registerWrite
    obtain ⟨hcfg, henv, -⟩ := hp.kept
    have hsame := hw.sameSurroundings_of_driver hi
    exact ⟨hcfg, hunits.pc.trans hsame.pc, hunits.wt.trans hsame.wt, hunits.sync.trans hsame.sync,
      hunits.evt.trans hsame.evt, hunits.dt.trans hsame.dt, henv⟩
  · obtain rfl := Host.Outcome.next.inj ((seqStep_of_idle h.idle).symm.trans ht)
    exact ⟨rfl, rfl, rfl, rfl, rfl, rfl, rfl⟩

/-- 43_spi_link.md R163: an idle block that has accepted the operation is before its frame. -/
theorem driving_accepted {op : List Byte} (hs : s.Inv) (hr : s.receiverAgrees = true) (hidle : s.seq.busy = false)
    (hop : decodeCommand op = .ok i) : Driving s i v (a + 1) (accepted op s) := by
  obtain ⟨hcfg, hb, hf, hresp, hframed⟩ := writing_accepted (bytes := []) hs hr hidle hop
  cases hframed with
  | before _ h => exact ⟨hcfg, hb, hf, hresp, .preparing (Nat.succ_pos a) rfl rfl h⟩
  | between _ hk => cases hk
  | sending _ hk => cases hk
  | after hk => cases hk

/-- 44_digipot.md R192: the shadow is as it was, or the frame is complete. -/
theorem Driving.shadow_or_frame (h : Driving s i v a u) :
    (u.dp = s.dp ∧ u.freeIdx = s.freeIdx) ∨ FrameDone s (wordBytes (wiperWord s.cfg v)) u := by
  cases h.phase with
  | preparing _ hdp hfree _ | framing _ hdp hfree _ => exact .inl ⟨hdp, hfree⟩
  | stored _ _ hdone => exact .inr hdone

/-- 43_spi_link.md R172, 44_digipot.md R190: the complete frame is the write-data word of the low ten bits of the value. -/
theorem FrameDone.wiper (h : FrameDone s (wordBytes (wiperWord s.cfg v)) u) :
    (received u.cfg u.out.pinTrace).frames =
      wordBits s.cfg (s.cfg.wiperAddr ++ s.cfg.cmdWrite ++ v.extractLsb' 0 10)
        :: (received s.cfg s.out.pinTrace).frames ∧
    u.out.pinTrace.countP isCsWrite = s.out.pinTrace.countP isCsWrite + 2 := by
  obtain ⟨-, -, -, -, hframes, hcount⟩ := h
  rw [hframes, ← dpEncode_eq_append]
  exact ⟨by simp [bytesBits, wordBits, wordBytes, wiperWord], hcount⟩

end Driver

/-! ### The four operations -/

/-- 44_digipot.md R186 to R190, R194: from `s` the operation `i` writes the value `v`: it is a mutating driver operation
that passes its checks. -/
def WritesWiper (s : State) (i : Instr) (v : Word) : Prop :=
  (i = .dpInc ∧ v.toNat = min (s.dp.toNat + 1) (s.cfg.steps - 1)) ∨ (i = .dpDec ∧ v.toNat = s.dp.toNat - 1) ∨
  (i = .dpSetNum v) ∨
  (∃ text : List Byte, i = .dpSetText text ∧ 1 ≤ text.length ∧ text.length ≤ 3 ∧
    (∀ b ∈ text, 0x30 ≤ b.toNat ∧ b.toNat ≤ 0x39) ∧ v.toNat = parseDecimal text ∧ v.toNat < s.cfg.steps)

section Operations

variable {s : State} {i : Instr} {v : Word}

theorem ofNat_eq_of_toNat {n : Nat} (h : v.toNat = n) : BitVec.ofNat 16 n = v := by
  rw [← h, BitVec.ofNat_toNat, BitVec.setWidth_eq]

/-- `DP_INC` and `DP_DEC` form their value from the shadow and answer with the new one. -/
theorem drives_step {target : State → Nat} (hi : i = .dpInc ∨ i = .dpDec)
    (hsteps : ∀ u, primStepsOf i u = [write id] ++ (dpWrite target ++ [respond fun s => wordValue s.dp]))
    (htarget : ∀ u, u.cfg = s.cfg → u.dp = s.dp → v.toNat = target u) (hfits : v.toNat < 2 ^ s.cfg.shadowBits) :
    Drives s i v [write id] target fun s => wordValue s.dp where
  steps := hsteps
  passes := List.forall_mem_singleton.mpr fun _ _ => rfl
  target u hcfg hdp := ofNat_eq_of_toNat (htarget u hcfg hdp)
  value u hu := by rw [driverAnswer, if_pos hi, (hu.fits hfits).1]

/-- `DP_SET_NUM` has no step before the write (44_digipot.md R190). -/
theorem drives_setNum : Drives s (.dpSetNum v) v [] (fun _ => v.toNat) fun _ => [] where
  steps _ := rfl
  passes := List.forall_mem_nil _
  target _ _ _ := ofNat_eq_of_toNat rfl
  value _ _ := by simp [driverAnswer]

/-- `DP_SET_TEXT` of a text that passes its three checks (44_digipot.md R188). -/
theorem drives_setText {text : List Byte} (hlength : 1 ≤ text.length ∧ text.length ≤ 3)
    (hdigits : ∀ b ∈ text, 0x30 ≤ b.toNat ∧ b.toNat ≤ 0x39) (hv : v.toNat = parseDecimal text)
    (hsteps : v.toNat < s.cfg.steps) :
    Drives s (.dpSetText text) v [failIf fun _ => badTextLength text, failIf fun _ => badTextDigit text,
      failIf fun s => badTextValue s.cfg text] (fun _ => parseDecimal text) fun _ => [] where
  steps _ := rfl
  passes := by
    have hpass {bad : State → Bool} (u : State) (h : bad u = false) : failIf bad u = .next u.advance := by
      rw [failIf, h, if_neg Bool.false_ne_true]
    simp only [List.forall_mem_cons]
    refine ⟨fun u _ => hpass u (badTextLength_eq_false_iff.mpr hlength),
      fun u _ => hpass u (badTextDigit_eq_false_iff.mpr hdigits), fun u hcfg => hpass u ?_, List.forall_mem_nil _⟩
    rw [hcfg, badTextValue_eq_false_iff]
    omega
  target _ _ _ := ofNat_eq_of_toNat hv
  value _ _ := by simp [driverAnswer]

/-- Each of the four is steps that pass on, the write of its value, and its answer. -/
theorem WritesWiper.drives (h : WritesWiper s i v) (hs : s.Inv) :
    ∃ pre target value, Drives s i v pre target value := by
  obtain ⟨hl, hr, -⟩ := inv_iff.mp hs
  replace hl := legalParams_of_legal hl
  rcases h with ⟨rfl, hv⟩ | ⟨rfl, hv⟩ | rfl | ⟨text, rfl, h1, h3, hdigits, hv, hlt⟩
  · have hpos := hl.steps_pos
    exact ⟨_, _, _, drives_step (.inl rfl) (fun _ => rfl) (fun u hcfg hdp => by rw [hv, incremented, hcfg, hdp])
      (hl.lt_shadow (by omega))⟩
  · have hdp := hr.dp
    exact ⟨_, _, _, drives_step (.inr rfl) (fun _ => rfl) (fun u _ hdp => by rw [hv, decremented, hdp]) (by omega)⟩
  · exact ⟨_, _, _, drives_setNum⟩
  · exact ⟨_, _, _, drives_setText ⟨h1, h3⟩ hdigits hv hlt⟩

theorem WritesWiper.driver (h : WritesWiper s i v) :
    i = .dpInc ∨ i = .dpDec ∨ (∃ v, i = .dpSetNum v) ∨ ∃ text, i = .dpSetText text := by
  rcases h with ⟨h, -⟩ | ⟨h, -⟩ | h | ⟨text, h, -⟩
  · exact .inl h
  · exact .inr (.inl h)
  · exact .inr (.inr (.inl ⟨v, h⟩))
  · exact .inr (.inr (.inr ⟨text, h⟩))

/-- 30_encoding.md R71, R72: the command is read as the operation. -/
theorem WritesWiper.decode (h : WritesWiper s i v) : decodeCommand (encode s.cfg i) = .ok i := by
  rcases h with ⟨rfl, -⟩ | ⟨rfl, -⟩ | rfl | ⟨text, rfl, -, h3, -⟩
  · rfl
  · rfl
  · exact decodeCommand_encode _ rfl rfl
  · exact decodeCommand_encode _ rfl (decide_eq_true (h3.trans (by decide)))

end Operations

/-- Settles O41: after every move the operation is in progress or ended, and the units and the environment are those of
the run of the other agents. -/
theorem driverWritesWireAndShadow : Obligations.DriverWritesWireAndShadow := by
  intro s i v hs hr hidle hwrites
  replace hwrites : WritesWiper s i v := hwrites
  have hdecode := hwrites.decode
  refine ⟨fun ms t hreset hcommand hrun => ?_, fun hready => ?_⟩
  · obtain ⟨pre, target, value, hd⟩ := hwrites.drives hs
    rw [runMoves_command hidle] at hrun
    have hkeep := fun m (hm : m ∈ ms) (u t : State) =>
      takeMove_driver (u := u) (t := t) hd (fun h => hreset (h ▸ hm)) (hcommand m hm)
    have hstart : Driving s i v (pre.length + 1) (accepted (encode s.cfg i) s) :=
      driving_accepted hs hr hidle hdecode
    have hsame : SameSurroundings s (accepted (encode s.cfg i) s) := ⟨rfl, rfl, rfl, rfl, rfl, rfl, rfl⟩
    obtain ⟨r, hothers, hsame⟩ := runMoves_sameSurroundings hkeep
      (fun _ _ => seqStep_driver_sameSurroundings hwrites.driver) hreset hcommand hsame (.inl hstart) hrun
    have hunits : ∃ r, runMoves (otherMoves ms) s = .next r ∧ t.pc = r.pc ∧ t.wt = r.wt ∧ t.sync = r.sync ∧
        t.evt = r.evt ∧ t.dt = r.dt ∧ t.env = r.env :=
      ⟨r, hothers, hsame.pc, hsame.wt, hsame.sync, hsame.evt, hsame.dt, hsame.env⟩
    obtain ⟨u, hu, rfl⟩ := runMoves_keeps hkeep (.inl hstart) hrun
    rcases hu with hu | hu
    · exact ⟨hu.shadow_or_frame.imp (fun ⟨hdp, hfree⟩ => ⟨hdp, hfree, hu.busy⟩) (·.wiper.1),
        fun _ => hu.responses, fun hend => absurd (hend.symm.trans hu.busy) Bool.false_ne_true, hu.cfg, hunits⟩
    · obtain ⟨hframes, hcount⟩ := hu.done.wiper
      refine ⟨.inr hframes, fun hbusy => absurd (hu.idle.symm.trans hbusy) Bool.false_ne_true,
        fun _ => ⟨hu.stored.fits, hu.stored.free, hcount, ?_⟩, hu.cfg, hunits⟩
      refine hu.responses.trans ?_
      rw [driverAnswer, apply_ite (0x00 :: · : List Byte → List Byte)]
      rfl
  · have hinv : (accepted (encode s.cfg i) s).Inv := by
      simpa [State.accept, hidle, accepted] using accept_inv (encode s.cfg i) hs
    obtain ⟨ms, t, hms, hrun, hend⟩ := exists_moves_to_end hinv rfl hdecode hready
    exact ⟨ms, t, hms, (runMoves_command hidle _ _).trans hrun, hend⟩

end Sys2Proof.Machine

/-! ## The Display Tick Timer

45_display_tick.md: its two controls, its step, and that no other operation reads or writes it. -/

namespace Sys2Proof.Machine

/-- Settles O43: each of the two is one register write and the response. -/
theorem displayTickControls : Obligations.DisplayTickControls := by
  refine ⟨rfl, rfl, fun s => ?_⟩
  obtain ⟨hstart, hstarted⟩ := exec_control (i := .dtStart) (s := s) rfl rfl
  obtain ⟨hstop, hstopped⟩ := exec_control (i := .dtStop) (s := s) rfl rfl
  exact ⟨hstart, hstarted, hstop, hstopped⟩

/-! ### The step -/

/-- 45_display_tick.md R216: a wrap of the running timer is an event. -/
theorem dtStep_of_fires {s : State} (h : (s.dt.cnt + 1) % s.cfg.dtPeriod = 0 ∧ s.dt.run = true) :
    dtStep s = ({ s with dt.cnt := (s.dt.cnt + 1) % s.cfg.dtPeriod } : State).fireEvent dtEvt := if_pos h

/-- 45_display_tick.md R216: short of a wrap, or with the timer off, only the phase moves on. -/
theorem dtStep_of_not_fires {s : State} (h : ¬((s.dt.cnt + 1) % s.cfg.dtPeriod = 0 ∧ s.dt.run = true)) :
    dtStep s = { s with dt.cnt := (s.dt.cnt + 1) % s.cfg.dtPeriod } := if_neg h

/-- Settles O44: with an event or without, the phase moves on, and the flag and its pin are those of the event. -/
theorem dtStepFiresOnWrap : Obligations.DtStepFiresOnWrap := by
  intro s
  by_cases h : (s.dt.cnt + 1) % s.cfg.dtPeriod = 0 ∧ s.dt.run = true
  · rw [dtStep_of_fires h, if_pos h, State.fireEvent, setEvt_spec]
    exact ⟨rfl, rfl, rfl, rfl⟩
  · rw [dtStep_of_not_fires h, if_neg h, if_pos rfl]
    exact ⟨rfl, rfl, rfl, rfl⟩

/-! ### What the other operations do not read -/

/-- `s` with another state of the Display Tick Timer. -/
def State.withTick (x : DisplayTick) (s : State) : State := { s with dt := x }

/-- The primitive step `f` does the same with another state of the Display Tick Timer. -/
def TickBlind (f : PrimStep) : Prop := ∀ x s, f (s.withTick x) = onNext (State.withTick x) (f s)

/-- What does not read the timer does not write it: with the timer state of `s` in its place, `f` would keep that. -/
theorem TickBlind.dt {f : PrimStep} (hf : TickBlind f) {s t : State} (h : f s = .next t) : t.dt = s.dt := by
  have hback : f s = onNext (State.withTick s.dt) (f s) := hf s.dt s
  rw [h, onNext] at hback
  rw [Host.Outcome.next.inj hback]
  rfl

theorem tickBlind_advance : TickBlind fun s => .next s.advance := fun _ _ => rfl

theorem tickBlind_respondOk : TickBlind respondOk := fun _ _ => rfl

theorem tickBlind_assertCs : TickBlind assertCs := fun _ _ => rfl

theorem tickBlind_releaseCs : TickBlind releaseCs := fun _ _ => rfl

theorem tickBlind_write {f : State → State} (hf : ∀ x s, f (s.withTick x) = (f s).withTick x) :
    TickBlind (write f) := fun x s => by
  rw [write_apply, hf]
  rfl

theorem tickBlind_respond {value : State → List Byte} (hv : ∀ x s, value (s.withTick x) = value s) :
    TickBlind (respond value) := fun x s => by
  rw [respond_apply, hv]
  rfl

/-- A step that chooses between two by a condition: the operand checks and the wait. -/
theorem tickBlind_ite {c : State → Bool} {f g : PrimStep} (hc : ∀ x s, c (s.withTick x) = c s) (hf : TickBlind f)
    (hg : TickBlind g) : TickBlind fun s => if c s then f s else g s := fun x s => by
  simp only [hc, hf x s, hg x s, apply_ite (onNext (State.withTick x))]

theorem tickBlind_illegalIf {bad : State → Bool} (hb : ∀ x s, bad (s.withTick x) = bad s) :
    TickBlind (illegalIf bad) := tickBlind_ite hb (fun _ _ => rfl) tickBlind_advance

theorem tickBlind_failIf {bad : State → Bool} (hb : ∀ x s, bad (s.withTick x) = bad s) :
    TickBlind (failIf bad) := tickBlind_ite hb (fun _ _ => rfl) tickBlind_advance

theorem tickBlind_waitTransfer : TickBlind waitTransfer :=
  tickBlind_ite (c := fun s => s.spi.busy) (fun _ _ => rfl) (fun _ _ => rfl) tickBlind_advance

theorem setEvt_withTick (v : BitVec 3) (x : DisplayTick) (s : State) :
    (s.withTick x).setEvt v = (s.setEvt v).withTick x := by
  rw [setEvt_spec, setEvt_spec]
  rfl

theorem storeShadow_withTick (x : DisplayTick) (s : State) :
    (s.withTick x).storeShadow = s.storeShadow.withTick x := by
  unfold State.storeShadow
  rw [apply_ite (State.withTick x)]
  rfl

section Lists

variable {f : State → State} {bad : State → Bool}

/-- An operation of one register write and the response. -/
theorem tickBlind_control (hf : ∀ x s, f (s.withTick x) = (f s).withTick x) :
    ∀ g ∈ [write f, respondOk], TickBlind g :=
  List.forall_mem_cons.mpr ⟨tickBlind_write hf, List.forall_mem_singleton.mpr tickBlind_respondOk⟩

/-- An operation of one operand check, one register write and the response. -/
theorem tickBlind_checked (hb : ∀ x s, bad (s.withTick x) = bad s)
    (hf : ∀ x s, f (s.withTick x) = (f s).withTick x) :
    ∀ g ∈ [illegalIf bad, write f, respondOk], TickBlind g :=
  List.forall_mem_cons.mpr ⟨tickBlind_illegalIf hb, tickBlind_control hf⟩

end Lists

/-- 20_memory.md R56: the read of a counter. -/
theorem tickBlind_readSteps (n c : Nat) : ∀ f ∈ readSteps n c, TickBlind f := by
  unfold readSteps
  split
  · exact List.forall_mem_cons.mpr ⟨tickBlind_write fun _ _ => rfl,
      List.forall_mem_singleton.mpr (tickBlind_respond fun _ _ => rfl)⟩
  · exact List.forall_mem_cons.mpr ⟨tickBlind_write fun _ _ => rfl, List.forall_mem_cons.mpr
      ⟨tickBlind_write fun _ _ => rfl, List.forall_mem_singleton.mpr (tickBlind_respond fun _ _ => rfl)⟩⟩

/-- 43_spi_link.md R163: a frame of bytes that the timer does not bear on. -/
theorem tickBlind_spiFrame {bytes : List (State → Byte)} (hb : ∀ b ∈ bytes, ∀ x s, b (s.withTick x) = b s) :
    ∀ f ∈ spiFrame bytes, TickBlind f := by
  refine List.forall_mem_cons.mpr ⟨tickBlind_assertCs, List.forall_mem_append.mpr ⟨fun f hf => ?_,
    List.forall_mem_singleton.mpr tickBlind_releaseCs⟩⟩
  obtain ⟨b, hmem, hf⟩ := List.mem_flatMap.mp hf
  have hload : TickBlind (loadByte b) := tickBlind_write fun x s => congrArg (s.withTick x).loadShift (hb b hmem x s)
  exact List.forall_mem_cons.mpr ⟨hload, List.forall_mem_singleton.mpr tickBlind_waitTransfer⟩ f hf

/-- A frame of given bytes, and one step more. -/
theorem tickBlind_frameOf (bytes : List Byte) {last : PrimStep} (hl : TickBlind last) :
    ∀ f ∈ spiFrame (bytes.map fun b _ => b) ++ [last], TickBlind f := by
  refine List.forall_mem_append.mpr ⟨tickBlind_spiFrame fun b hb => ?_, List.forall_mem_singleton.mpr hl⟩
  obtain ⟨_, -, rfl⟩ := List.mem_map.mp hb
  exact fun _ _ => rfl

/-- 44_digipot.md R190: the write of a value that the timer does not bear on, and one step more. -/
theorem tickBlind_dpWrite {v : State → Nat} (hv : ∀ x s, v (s.withTick x) = v s) {last : PrimStep}
    (hl : TickBlind last) : ∀ f ∈ dpWrite v ++ [last], TickBlind f := by
  have hkeep : TickBlind (write fun s => s.setTmp (BitVec.ofNat 16 (v s))) := tickBlind_write fun x s =>
    congrArg (fun n => (s.withTick x).setTmp (BitVec.ofNat 16 n)) (hv x s)
  have hframe := tickBlind_spiFrame (bytes := [fun s => hiByte (tmpWord s), fun s => loByte (tmpWord s)])
    (List.forall_mem_cons.mpr ⟨fun _ _ => rfl, List.forall_mem_singleton.mpr fun _ _ => rfl⟩)
  have hstore : TickBlind (write State.storeShadow) := tickBlind_write storeShadow_withTick
  exact List.forall_mem_append.mpr ⟨List.forall_mem_cons.mpr ⟨hkeep, List.forall_mem_append.mpr
    ⟨hframe, List.forall_mem_singleton.mpr hstore⟩⟩, List.forall_mem_singleton.mpr hl⟩

/-- 45_display_tick.md R219: no step of an operation but `DT_START` and `DT_STOP` reads the timer. -/
theorem tickBlind_primStepsOf {i : Instr} (hstart : i ≠ .dtStart) (hstop : i ≠ .dtStop) (s : State) :
    ∀ f ∈ primStepsOf i s, TickBlind f := by
  cases i with
  | dtStart => exact absurd rfl hstart
  | dtStop => exact absurd rfl hstop
  | pcEnable | pcDisable | pcClear | wtInit | wtStop | wtClr | syncHold | pscReset | syncRelease =>
    exact tickBlind_control fun _ _ => rfl
  | pcSetcmp _ | wtSetcmp _ | wtSetruncs _ | wtSetcs _ => exact tickBlind_checked (fun _ _ => rfl) fun _ _ => rfl
  | evtAck v => exact tickBlind_checked (fun _ _ => rfl) fun x s => setEvt_withTick (ackedFlags s.evt v) x s
  | pcRead | wtRead => exact tickBlind_readSteps _ _
  | dpGet | evtRead => exact List.forall_mem_singleton.mpr (tickBlind_respond fun _ _ => rfl)
  | wtStart =>
    simp only [primStepsOf, List.forall_mem_cons]
    exact ⟨tickBlind_write fun _ _ => rfl, tickBlind_write fun _ _ => rfl, tickBlind_write fun _ _ => rfl,
      tickBlind_write fun _ _ => rfl, tickBlind_write fun _ _ => rfl, tickBlind_write fun _ _ => rfl,
      tickBlind_respondOk, List.forall_mem_nil _⟩
  | spiWrite8 b => exact tickBlind_frameOf [b] tickBlind_respondOk
  | spiWrite16 w => exact tickBlind_frameOf [hiByte w, loByte w] tickBlind_respondOk
  | wireWrite _ _ | wireIncr _ _ | wireDecr _ _ | wireRead _ _ =>
    exact tickBlind_frameOf [hiByte _, loByte _] fun _ _ => rfl
  | dpInc | dpDec =>
    exact List.forall_mem_cons.mpr ⟨tickBlind_advance,
      tickBlind_dpWrite (fun _ _ => rfl) (tickBlind_respond fun _ _ => rfl)⟩
  | dpSetText text =>
    simp only [primStepsOf, List.forall_mem_cons (p := TickBlind)]
    exact ⟨tickBlind_failIf fun _ _ => rfl, tickBlind_failIf fun _ _ => rfl, tickBlind_failIf fun _ _ => rfl,
      tickBlind_dpWrite (fun _ _ => rfl) tickBlind_respondOk⟩
  | dpSetNum v => exact tickBlind_dpWrite (fun _ _ => rfl) tickBlind_respondOk

/-- The timer does not bear on which steps an operation has. -/
theorem primStepsOf_withTick (i : Instr) (x : DisplayTick) (s : State) :
    primStepsOf i (s.withTick x) = primStepsOf i s := by cases i <;> rfl

/-- 45_display_tick.md R219: an operation but `DT_START` and `DT_STOP` does not read the timer. -/
theorem tickBlind_exec {i : Instr} (hstart : i ≠ .dtStart) (hstop : i ≠ .dtStop) : TickBlind (exec i) := by
  intro x s
  have hsteps := tickBlind_primStepsOf hstart hstop s
  have hindex : (s.withTick x).seq.step = s.seq.step := rfl
  rw [exec_eq_performStep, exec_eq_performStep, primStepsOf_withTick, performStep, performStep, hindex]
  cases hf : (primStepsOf i s)[s.seq.step]? with
  | none => rfl
  | some f => exact hsteps f (List.mem_of_getElem? hf) x s

/-- Settles O45: each step of such an operation is `TickBlind`, so the operation is, and what it does not read it does
not write. -/
theorem displayTickIndependent : Obligations.DisplayTickIndependent := fun _ s x hstart hstop =>
  ⟨tickBlind_exec hstart hstop x s, fun _ h => (tickBlind_exec hstart hstop).dt h⟩

end Sys2Proof.Machine

/-! ## The event flags and their pins

60_exceptions.md R234, R235: the acknowledgement step by step, and that the event pins are written exactly when the flags
change. -/

namespace Sys2Proof.Machine

/-! ### The acknowledgement -/

/-- 30_encoding.md R77 (e): a mask has a reserved bit when it is 8 or more. -/
theorem badEventMask_iff {mask : Byte} : badEventMask mask = true ↔ 8 ≤ mask.toNat := by
  have hlt := mask.isLt
  rw [badEventMask, decide_eq_true_iff, ne_eq, ← BitVec.toNat_inj, BitVec.extractLsb'_toNat, Nat.shiftRight_eq_div_pow]
  change ¬ mask.toNat / 8 % 32 = 0 ↔ 8 ≤ mask.toNat
  omega

theorem badEventMask_eq_false_iff {mask : Byte} : badEventMask mask = false ↔ mask.toNat < 8 := by
  rw [Bool.eq_false_iff, ne_eq, badEventMask_iff, Nat.not_le]

/-- Settles O46: the acknowledgement is a checked write, and what it writes is `getLsbD_ackedFlags`. -/
theorem eventAcknowledge : Obligations.EventAcknowledge := by
  refine ⟨fun _ => rfl, fun s mask => ?_⟩
  obtain ⟨hbad, hgood, hwrite, hend⟩ := exec_checked (i := .evtAck mask) (s := s) rfl (State.setEvt_seq _ s)
  rw [badEventMask_iff] at hbad
  rw [badEventMask_eq_false_iff] at hgood
  rw [setEvt_spec] at hwrite
  exact ⟨hbad, hgood, fun hk => ⟨ackedFlags s.evt mask, getLsbD_ackedFlags s.evt mask, hwrite hk⟩, hend⟩

/-! ### The pins -/

/-- 60_exceptions.md R235, of a change of state from `s` to `t`: new flags are written to the event pins and to no other
pin; with the same flags, whatever is written is no event pin. -/
def PinsFollow (s t : State) : Prop :=
  (t.evt ≠ s.evt → t.out.pinTrace = .evt t.evt :: s.out.pinTrace) ∧
  (t.evt = s.evt → ∃ ws : List PinWrite, t.out.pinTrace = ws ++ s.out.pinTrace ∧ ∀ w ∈ ws, ∀ e, w ≠ .evt e)

/-- The flags stay, and pins other than the event pins are written. -/
theorem pinsFollow_of_evt_eq {s t : State} (he : t.evt = s.evt) (ws : List PinWrite)
    (ht : t.out.pinTrace = ws ++ s.out.pinTrace) (hws : ∀ w ∈ ws, ∀ e, w ≠ .evt e) : PinsFollow s t :=
  ⟨fun hne => absurd he hne, fun _ => ⟨ws, ht, hws⟩⟩

/-- The flags stay, and no pin is written. -/
theorem pinsFollow_of_quiet {s t : State} (he : t.evt = s.evt) (ht : t.out.pinTrace = s.out.pinTrace) :
    PinsFollow s t :=
  pinsFollow_of_evt_eq he [] ht (List.forall_mem_nil _)

/-- A write of `EVT`, after other registers were written, writes the pins exactly when it changes the flags. -/
theorem pinsFollow_setEvt {s u : State} (he : u.evt = s.evt) (ht : u.out = s.out) (v : BitVec 3) :
    PinsFollow s (u.setEvt v) := by
  rw [setEvt_spec, he, ht]
  by_cases hv : v = s.evt
  · exact pinsFollow_of_quiet hv (if_pos hv)
  · exact ⟨fun _ => if_neg hv, fun hkept => absurd hkept hv⟩

/-- 40_pulse_counter.md R100: an edge counts, and it may fire. -/
theorem edgeStep_pinsFollow (s : State) : PinsFollow s (edgeStep s) := by
  rcases edgeStep_cases s with h | ⟨-, -, h | h⟩ <;> rw [h]
  · exact pinsFollow_of_quiet rfl rfl
  · exact pinsFollow_of_quiet rfl rfl
  · exact pinsFollow_setEvt rfl rfl _

/-- 41_window_timer.md R120, R121: a base clock counts, and with a tick it may fire. -/
theorem clkStep_pinsFollow (s : State) : PinsFollow s (clkStep s) := by
  rcases clkStep_cases s with ⟨-, h⟩ | ⟨-, h | ⟨-, h⟩⟩ <;> rw [h]
  · exact pinsFollow_of_quiet rfl rfl
  · exact pinsFollow_of_quiet rfl rfl
  · rcases wtTick_cases { s with sync.psc := (s.sync.psc + 1) % 2 ^ s.cfg.pscBits } with h' | h' <;> rw [h']
    · exact pinsFollow_of_quiet rfl rfl
    · exact pinsFollow_setEvt rfl rfl _

/-- 45_display_tick.md R216: the phase moves on, and with a wrap it may fire. -/
theorem dtStep_pinsFollow (s : State) : PinsFollow s (dtStep s) := by
  rcases dtStep_cases s with h | h <;> rw [h]
  · exact pinsFollow_of_quiet rfl rfl
  · exact pinsFollow_setEvt rfl rfl _

/-- 43_spi_link.md R164: a bit step writes the clock and the data line. -/
theorem engBitStep_pinsFollow (s : State) : PinsFollow s (engBitStep s) := by
  rcases engBitStep_cases s with h | ⟨-, -, h⟩ <;> rw [h]
  · exact pinsFollow_of_quiet rfl rfl
  · rw [shiftPins_spec]
    refine pinsFollow_of_evt_eq rfl _ rfl ?_
    cases s.cfg.cpha <;> simp

/-- 43_spi_link.md R163: a step of a frame writes chip-select or no pin. -/
theorem FrameStep.pinsFollow {s t : State} {n j : Nat} (h : FrameStep s n j t) : PinsFollow s t := by
  cases h with
  | assertCs => exact pinsFollow_of_evt_eq rfl [.cs (csActive s.cfg)] rfl (by simp)
  | releaseCs => exact pinsFollow_of_evt_eq rfl [.cs (csInactive s.cfg)] rfl (by simp)
  | loadByte | waiting | waited => exact pinsFollow_of_quiet rfl rfl

/-- 60_exceptions.md R234: of the register writes only that of `EVT_ACK` is to the flags, and no other writes a pin. -/
theorem RegisterWrite.pinsFollow {i : Instr} {s u : State} (h : RegisterWrite i s u) : PinsFollow s u.advance := by
  cases h with
  | evtAck s v => exact pinsFollow_setEvt (u := s) rfl rfl (ackedFlags s.evt v)
  | shadow => exact pinsFollow_of_quiet (State.storeShadow_evt s) (congrArg Observed.pinTrace (State.storeShadow_out s))
  | _ => exact pinsFollow_of_quiet rfl rfl

theorem Performs.pinsFollow {i : Instr} {s t : State} (h : Performs i s t) : PinsFollow s t := by
  cases h with
  | frame hf hk h => exact h.pinsFollow
  | registers h => exact h.pinsFollow
  | keepValue | respond | endJob => exact pinsFollow_of_quiet rfl rfl

/-- Settles O48: every move of every agent but RESET leaves the event pins, or writes the flags by `State.setEvt`. -/
theorem eventPinsFollowFlags : Obligations.EventPinsFollowFlags := by
  intro m s t h hm
  change PinsFollow s t
  cases m with
  | seq =>
    rcases seqStep_cases h with ⟨-, rfl⟩ | ⟨-, -, rfl⟩ | ⟨-, i, -, hp⟩
    · exact pinsFollow_of_quiet rfl rfl
    · exact pinsFollow_of_quiet rfl rfl
    · exact hp.pinsFollow
  | clk => exact Host.Outcome.next.inj h ▸ clkStep_pinsFollow s
  | edge => exact Host.Outcome.next.inj h ▸ edgeStep_pinsFollow s
  | eng => exact Host.Outcome.next.inj h ▸ engBitStep_pinsFollow s
  | dt => exact Host.Outcome.next.inj h ▸ dtStep_pinsFollow s
  | command bytes =>
    have hkept := pinsFollow_of_quiet (State.accept_evt bytes s) (congrArg Observed.pinTrace (State.accept_out bytes s))
    exact Host.Outcome.next.inj h ▸ hkept
  | spiReady | readOrder =>
    obtain rfl := Host.Outcome.next.inj h
    exact pinsFollow_of_quiet rfl rfl
  | reset => exact absurd rfl hm

end Sys2Proof.Machine

/-! ## The machine goes on, and every operation ends

60_exceptions.md R225, R237: under the invariant every move answers a next state; and with `spi_ready` and no input to
come, the block's own moves end the operation in progress, their number bounded by `movesLeft`. -/

namespace Sys2Proof.Machine

/-- 60_exceptions.md R225: under the invariant the sequencer's step is one of its operation, or `raise Illegal`. -/
theorem seqStep_answers {s : State} (hs : s.Inv) : ∃ t, seqStep s = .next t := by
  obtain ⟨-, -, hstep⟩ := inv_iff.mp hs
  cases hq : s.seq.busy with
  | false => exact ⟨s, seqStep_of_idle hq⟩
  | true =>
    cases hf : s.fetched with
    | error e => exact ⟨_, seqStep_of_error hq hf⟩
    | ok i =>
      obtain ⟨⟨hlt, -⟩, -⟩ := (inStep_running hq hf).mp hstep
      rw [seqStep_of_fetched hq hf]
      exact (everyInstructionAnswers i s).1 hlt

/-- Settles O56: a step is a move on the state without that move, and only SEQ's could fail to answer. -/
theorem machineNeverStops : Obligations.MachineNeverStops := by
  intro s hs
  have hpop : s.popMove.Inv := hs
  rw [step_eq]
  cases s.nextMove with
  | seq => exact seqStep_answers hpop
  | _ => exact ⟨_, rfl⟩

/-! ### The end -/

/-- With no input to come the next step is the block's own move. -/
theorem step_of_no_inputs {s : State} (h : s.env.inputs = []) : step s = takeMove (ownMove s) s := by
  have hnext : s.nextMove = ownMove s := by simp only [State.nextMove, h]; rfl
  have hpop : s.popMove = s := by
    calc s.popMove
      _ = { s with env.inputs := s.env.inputs } := by rw [State.popMove, h, List.tail_nil]
      _ = s := rfl
  rw [step_eq, hnext, hpop]

/-- A run whose first step answers `t` goes on from `t`. -/
theorem run_succ_of_step {s t : State} (h : step s = .next t) (n : Nat) :
    Host.Core.run Sys2Proof.core (n + 1) s = Host.Core.run Sys2Proof.core n t := by
  have hcore : Sys2Proof.core.step s = .next t := h
  simp only [Host.Core.run, hcore]

/-- 10_state.md R30: neither SEQ nor SPIENG changes the environment. -/
theorem takeMove_ownMove_env {s t : State} (h : takeMove (ownMove s) s = .next t) : t.env = s.env := by
  rcases ownMove_eq s with hm | hm <;> rw [hm] at h
  · rcases seqStep_cases h with ⟨-, rfl⟩ | ⟨-, -, rfl⟩ | ⟨-, i, -, hp⟩
    · rfl
    · rfl
    · exact hp.kept.2.1
  · obtain rfl := Host.Outcome.next.inj h
    rw [engBitStep_kept]

/-- The longest operation is `DP_SET_TEXT`. -/
theorem stepCount_le (p : Params) (i : Instr) : stepCount p i ≤ 12 := by
  cases i with
  | pcRead | wtRead =>
    simp only [stepCount]
    split <;> decide
  | _ => simp [stepCount]

/-- The longest operation has 12 steps of at most 9 moves, and a byte 8 bits. -/
theorem movesLeft_le (i : Instr) (s : State) : movesLeft i s ≤ 116 := by
  have hcount := stepCount_le s.cfg i
  unfold movesLeft
  split <;> omega

/-- An operation in progress has a step to come. -/
theorem movesLeft_pos {i : Instr} {s : State} (hs : s.Inv) (hq : s.seq.busy = true) (hf : s.fetched = .ok i) :
    0 < movesLeft i s := by
  obtain ⟨-, -, hstep⟩ := inv_iff.mp hs
  obtain ⟨⟨hlt, -⟩, -⟩ := (inStep_running hq hf).mp hstep
  unfold movesLeft
  omega

/-- 43_spi_link.md R168: the operation in progress ends within the moves left, by induction on their number. -/
theorem run_ends_operation {i : Instr} {s : State} (hs : s.Inv) (hq : s.seq.busy = true) (hf : s.fetched = .ok i)
    (hin : s.env.inputs = []) (hr : s.env.spiReady = true) :
    ∃ n t, n ≤ movesLeft i s ∧ Host.Core.run Sys2Proof.core n s = .next t ∧ t.seq.busy = false := by
  induction hn : movesLeft i s using Nat.strong_induction_on generalizing s with
  | h left ih =>
    subst hn
    obtain ⟨t, ht, hinv, hready, hend⟩ := takeMove_ownMove hs hq hf hr
    have hstep : step s = .next t := (step_of_no_inputs hin).trans ht
    rcases hend with hidle | ⟨hqt, hft, hlt⟩
    · exact ⟨1, t, movesLeft_pos hs hq hf, run_succ_of_step hstep 0, hidle⟩
    · have hint : t.env.inputs = [] := by rw [takeMove_ownMove_env ht, hin]
      obtain ⟨n, u, hle, hrun, hidle⟩ := ih _ hlt hinv hqt hft hint hready rfl
      exact ⟨n + 1, u, Nat.lt_of_le_of_lt hle hlt, (run_succ_of_step hstep n).trans hrun, hidle⟩

/-- 30_encoding.md R75, R76: bytes that are no command are answered in one step. -/
theorem step_of_illegal {s : State} (hs : s.Inv) (hq : s.seq.busy = true) {e : DecodeError} (hf : s.fetched = .error e)
    (hin : s.env.inputs = []) : step s = .next (s.deliver statusIllegal []) := by
  obtain ⟨-, -, hstep⟩ := inv_iff.mp hs
  obtain ⟨-, hlink⟩ := (inStep_error hq hf).mp hstep
  rw [step_of_no_inputs hin, ownMove, hlink.quiet, if_neg Bool.false_ne_true]
  exact seqStep_of_error hq hf

/-- Settles O57: a command that does not decode ends at once, an operation within `movesLeft`. -/
theorem everyOperationEnds : Obligations.EveryOperationEnds := by
  intro s hs hq hin hr
  cases hf : s.fetched with
  | error e => exact ⟨1, _, by decide, run_succ_of_step (step_of_illegal hs hq hf hin) 0, rfl⟩
  | ok i =>
    obtain ⟨n, t, hle, hrun, hidle⟩ := run_ends_operation hs hq hf hin hr
    exact ⟨n, t, hle.trans ((movesLeft_le i s).trans (by decide)), hrun, hidle⟩

end Sys2Proof.Machine

/-! ## The idle block -/

namespace Sys2Proof.Machine

/-- Settles O58 (70_reset_and_hazards.md R278, 43_spi_link.md R169): with no operation in progress the invariant puts
the link outside every frame and at no wait step. -/
theorem idleBlockIsQuiet : Obligations.IdleBlockIsQuiet := by
  intro s hs hidle
  obtain ⟨-, -, hstep⟩ := inv_iff.mp hs
  have hlink : LinkAt false false s := (inStep_idle hidle).mp hstep
  have hcs : s.spi.cs = csInactive s.cfg := hlink.cs
  exact ⟨hlink.quiet, hcs, hlink.sck⟩

end Sys2Proof.Machine
